-- ==== Sys2Proof/Word.lean ====
section
/-! DEFINITION. The bit widths of the SHA-1 core (spec 00_scope.md R4, R7): bytes, 32-bit words, the command word and
the sequencer word. All values are unsigned; addition of words is `+` on `BitVec 32`, which is R9's addition mod 2^32,
and the bitwise operations of R11 are those of `BitVec`. -/

namespace Sys2Proof

/-- R7: an 8-bit message unit. -/
abbrev Byte := BitVec 8

/-- R7: a 32-bit word of the working registers, the accumulator and the schedule. -/
abbrev Word := BitVec 32

/-- R70: a host command, format CMD16. -/
abbrev CmdWord := BitVec 16

/-- R76: the sequencer word `PH ‖ IDX`, format SEQ11. -/
abbrev SeqWord := BitVec 11

end Sys2Proof
end

