-- ==== Sys2Proof/Syntax.lean ====
section
/-! DEFINITION. The instructions of the core (spec 30_encoding.md): the six host commands of R72 and the nine
micro-operations of R76, one constructor per row of opcode_table.json; the two formats of their words; and the names
under which the decoder rejects a word. -/

namespace Sys2Proof

/-- One constructor per row of the opcode table. The first six are host commands, the other nine are micro-operations,
whose operand is IDX (R76). -/
inductive Instr where
  /-- INIT: open a new computation (R92). -/
  | init
  /-- WRB d: append one message byte (R93). -/
  | wrb (d : Byte)
  /-- FIN: end of message (R94). -/
  | fin
  /-- RDW i: read digest word i (R149). -/
  | rdw (i : Fin 5)
  /-- RDB j: read digest byte j (R150). -/
  | rdb (j : Fin 20)
  /-- RDS: read the status view (R151). -/
  | rds
  /-- PADM: push the mark byte (R96). -/
  | padm
  /-- PADZ: push one zero byte or finish the zero-fill (R97). -/
  | padz
  /-- PADL k: push byte k of the length field (R98). -/
  | padl (k : Fin 8)
  /-- LDW i: load schedule word i from the block buffer (R114). -/
  | ldw (i : Fin 16)
  /-- EXP i: compute schedule word i, 16 ≤ i (R115; the lower bound is a check of WellFormed). -/
  | exp (i : Fin 80)
  /-- LDS: load the working registers from the accumulator (R130). -/
  | lds
  /-- RND i: round i (R131). -/
  | rnd (i : Fin 80)
  /-- CHN: chaining addition (R132). -/
  | chn
  /-- LATCH: write the digest output register (R148). -/
  | latch
  deriving DecidableEq, Repr

/-- A word of one of the two formats: a command at the port (R70) or the sequencer word (R76). -/
inductive Encoded where
  | cmd16 (w : CmdWord)
  | seq11 (w : SeqWord)
  deriving DecidableEq, Repr

/-- Why the decoder gives no instruction. -/
inductive DecodeReject where
  /-- The command word satisfies no row of R72: it is illegal (R75). -/
  | illegalCommand
  /-- PH is IDLE, ABSORB, DONE or FAULT: the sequencer word selects no micro-operation (R77). -/
  | noMicroOp
  /-- The sequencer word is reserved: PH code 12, 13 or 14, or IDX outside the range of its row (R77). -/
  | reservedSequencer
  deriving DecidableEq, Repr

end Sys2Proof
end

