-- ==== Sys2Proof/WellFormed.lean ====
section
/-! DEFINITION. Which terms of `Instr` are instructions of the core. The bounds 0..4, 0..19, 0..7, 0..15 and 0..79 of
R71 and R76 are in the operand types; the one bound that is not is the lower end of EXP's range 16..79. -/

namespace Sys2Proof

/-- R76: the IDX range of EXP starts at 16; every other operand bound is in its type. -/
def Instr.wellFormed : Instr → Bool
  | .exp i => decide (16 ≤ i.val)
  | .init => true
  | .wrb _ => true
  | .fin => true
  | .rdw _ => true
  | .rdb _ => true
  | .rds => true
  | .padm => true
  | .padz => true
  | .padl _ => true
  | .ldw _ => true
  | .lds => true
  | .rnd _ => true
  | .chn => true
  | .latch => true

/-- The six host commands, as against the nine micro-operations (30_encoding.md, opening). -/
def Instr.isCommand : Instr → Bool
  | .init => true
  | .wrb _ => true
  | .fin => true
  | .rdw _ => true
  | .rdb _ => true
  | .rds => true
  | .padm => false
  | .padz => false
  | .padl _ => false
  | .ldw _ => false
  | .exp _ => false
  | .lds => false
  | .rnd _ => false
  | .chn => false
  | .latch => false

end Sys2Proof
end

