-- ==== Sys2Proof/Decode.lean ====
section
/-! DEFINITION. The decoders of the two formats (spec 30_encoding.md R72, R76), total on every word and rejecting by
name, then the encoder, the rows of the opcode table, and the function by which the host asks for a row. Each decoder
forms `w AND mask` for a row, compares with the row's match, then applies the row's further condition, as R72 says. -/

namespace Sys2Proof

/-- R72, the opcode map of the command word; a word of no row is illegal (R75). -/
def decodeCommand (w : CmdWord) : Except DecodeReject Instr :=
  if w &&& 0xFFFF#16 = 0x0000#16 then .ok .init
  else if w &&& 0xFF00#16 = 0x1000#16 then .ok (.wrb (w.setWidth 8))
  else if w &&& 0xFFFF#16 = 0x2000#16 then .ok .fin
  else if w &&& 0xFFF8#16 = 0x3000#16 then
    if h : (w &&& 0x0007#16).toNat < 5 then .ok (.rdw ⟨_, h⟩) else .error .illegalCommand
  else if w &&& 0xFFE0#16 = 0x4000#16 then
    if h : (w &&& 0x001F#16).toNat < 20 then .ok (.rdb ⟨_, h⟩) else .error .illegalCommand
  else if w &&& 0xFFFF#16 = 0x5000#16 then .ok .rds
  else .error .illegalCommand

/-- The IDX field of a sequencer word, bits 6:0 (R76). -/
def seqIndex (w : SeqWord) : Nat := (w &&& 0x07F#11).toNat

/-- R76, the micro-operation a sequencer word selects; PH codes 0, 1, 11 and 15 select none and every other word is
reserved (R77). -/
def decodeSeq (w : SeqWord) : Except DecodeReject Instr :=
  let ph := w &&& 0x780#11
  let k := seqIndex w
  if ph = 0x100#11 then if k = 0 then .ok .padm else .error .reservedSequencer
  else if ph = 0x180#11 then if k = 0 then .ok .padz else .error .reservedSequencer
  else if ph = 0x200#11 then if h : k < 8 then .ok (.padl ⟨k, h⟩) else .error .reservedSequencer
  else if ph = 0x280#11 then if h : k < 16 then .ok (.ldw ⟨k, h⟩) else .error .reservedSequencer
  else if ph = 0x300#11 then
    if h : 16 ≤ k ∧ k < 80 then .ok (.exp ⟨k, h.2⟩) else .error .reservedSequencer
  else if ph = 0x380#11 then if k = 0 then .ok .lds else .error .reservedSequencer
  else if ph = 0x400#11 then if h : k < 80 then .ok (.rnd ⟨k, h⟩) else .error .reservedSequencer
  else if ph = 0x480#11 then if k = 0 then .ok .chn else .error .reservedSequencer
  else if ph = 0x500#11 then if k = 0 then .ok .latch else .error .reservedSequencer
  else if ph = 0x000#11 ∨ ph = 0x080#11 ∨ ph = 0x580#11 ∨ ph = 0x780#11 then .error .noMicroOp
  else .error .reservedSequencer

/-- The decoder of both formats. -/
def decode : Encoded → Except DecodeReject Instr
  | .cmd16 w => decodeCommand w
  | .seq11 w => decodeSeq w

/-- The word of an instruction, written from the tables of R72 and R76. -/
def encode : Instr → Encoded
  | .init => .cmd16 0x0000#16
  | .wrb d => .cmd16 (0x10#8 ++ d)
  | .fin => .cmd16 0x2000#16
  | .rdw i => .cmd16 (0x0600#13 ++ BitVec.ofNat 3 i.val)
  | .rdb j => .cmd16 (0x0200#11 ++ BitVec.ofNat 5 j.val)
  | .rds => .cmd16 0x5000#16
  | .padm => .seq11 (2#4 ++ 0#7)
  | .padz => .seq11 (3#4 ++ 0#7)
  | .padl k => .seq11 (4#4 ++ BitVec.ofNat 7 k.val)
  | .ldw i => .seq11 (5#4 ++ BitVec.ofNat 7 i.val)
  | .exp i => .seq11 (6#4 ++ BitVec.ofNat 7 i.val)
  | .lds => .seq11 (7#4 ++ 0#7)
  | .rnd i => .seq11 (8#4 ++ BitVec.ofNat 7 i.val)
  | .chn => .seq11 (9#4 ++ 0#7)
  | .latch => .seq11 (10#4 ++ 0#7)

/-- An encoded word as a number, bit 0 its least significant bit. -/
def Encoded.toNat : Encoded → Nat
  | .cmd16 w => w.toNat
  | .seq11 w => w.toNat

/-- `(match, mask)` of the instruction's row of opcode_table.json. -/
def Instr.tableRow : Instr → Nat × Nat
  | .init => (0x0000, 0xFFFF)
  | .wrb _ => (0x1000, 0xFF00)
  | .fin => (0x2000, 0xFFFF)
  | .rdw _ => (0x3000, 0xFFF8)
  | .rdb _ => (0x4000, 0xFFE0)
  | .rds => (0x5000, 0xFFFF)
  | .padm => (0x100, 0x780)
  | .padz => (0x180, 0x780)
  | .padl _ => (0x200, 0x780)
  | .ldw _ => (0x280, 0x780)
  | .exp _ => (0x300, 0x780)
  | .lds => (0x380, 0x780)
  | .rnd _ => (0x400, 0x780)
  | .chn => (0x480, 0x780)
  | .latch => (0x500, 0x780)

/-- The word a number of at most 16 bits stands for when the table's two formats are read together: a legal command
word is a command; another number whose PH field is that of a busy phase, 0x100 to 0x57F, is a sequencer word; the rest
are (illegal) command words. No number is both a legal command word and the word of a micro-operation, since the only
legal command word below 2^11 is INIT's 0, which as a sequencer word has PH = IDLE (log entry 8). -/
def tableEncoded (nbits w : Nat) : Encoded :=
  if nbits ≤ 11 then .seq11 (BitVec.ofNat 11 w)
  else match decodeCommand (BitVec.ofNat 16 w) with
    | .ok _ => .cmd16 (BitVec.ofNat 16 w)
    | .error _ => if 0x100 ≤ w ∧ w < 0x580 then .seq11 (BitVec.ofNat 11 w) else .cmd16 (BitVec.ofNat 16 w)

/-- The instruction the decoder reads from a word of the opcode table of `nbits` bits (a SEQ11 row has 11, or 16 in
whole bytes). -/
def decodeTableWord (nbits w : Nat) : Option Instr :=
  match decode (tableEncoded nbits w) with
  | .ok i => some i
  | .error _ => none

end Sys2Proof
end

