-- ==== Sys2Proof/Config.lean ====
section
/-! DEFINITION. The free values of the model: the open parameter RESET_GARBAGE (spec 10_state.md R38, 92_eei_decisions.md
OPEN table, 93 U3). A reset event leaves H, A..E, W, BUF, DIGEST, BITLEN and FILL unspecified; each is then one of these
constants, which have no body, applied to the number of reset events taken before (log entry 3). The core has no other
implementation parameter (R4). -/

namespace Sys2Proof.Config

/-- H[0..4] after reset event number `n` (R38: unspecified). -/
opaque resetH : Nat → Vector Word 5

/-- A, B, C, D, E, in this order, after reset event number `n` (R38: unspecified). -/
opaque resetWork : Nat → Vector Word 5

/-- W[0..79] after reset event number `n` (R38: unspecified). -/
opaque resetW : Nat → Vector Word 80

/-- BUF[0..63] after reset event number `n` (R38: unspecified). -/
opaque resetBuf : Nat → Vector Byte 64

/-- DIGEST after reset event number `n` (R38: unspecified). -/
opaque resetDigest : Nat → BitVec 160

/-- BITLEN after reset event number `n` (R38: unspecified). -/
opaque resetBitlen : Nat → BitVec 64

/-- FILL after reset event number `n` (R38: unspecified, within the values 0..64 that R77 and 93 U4 leave it: log entry 6). -/
opaque resetFill : Nat → Fin 65

end Sys2Proof.Config
end

