-- ==== Sys2Proof/Machine/State.lean ====
section
/-! DEFINITION. The state of the core (spec 10_state.md R20: the sixteen items of its table) together with what stands
at its port and what the agents outside it will do (R6, R80, R190, R195); the reasons for which the model stops; and the
state after reset (R38). The types follow R77: enumerations for PH, RSM and ERR, bounded FILL and IDX. -/

namespace Sys2Proof.Machine

/-- R30: the phases of the sequencer; codes 12, 13 and 14 name no phase. -/
inductive Phase where
  | idle | absorb | padm | padz | padl | ldw | exp | lds | rnd | chn | latch | done | fault
  deriving DecidableEq, Repr

/-- R32: where CHN continues after a block; code 3 names no state. -/
inductive Resume where
  | absorb | padz | latch
  deriving DecidableEq, Repr

/-- R34, R165: the recorded fault cause; codes 5..15 are never written. -/
inductive ErrCode where
  | none | lenOverflow | internalInvariant | protocol | illegalCmd
  deriving DecidableEq, Repr

/-- R74: the response to an accepted command. -/
structure Response where
  ok : Bool
  data : Word
  deriving DecidableEq, Repr

/-- What an agent outside the core does next. The order of a list of turns is the interleaving SCHEDULE (R194). -/
inductive Turn where
  /-- The host stays quiet for one step: the core takes its step, if it has one. -/
  | core
  /-- The host presents a command word (R80), once its port is free. -/
  | command (w : CmdWord)
  /-- The reset event (R190). -/
  | reset
  deriving DecidableEq, Repr

/-- The whole state. The fields `h` to `err` are the items of R20; the last four are the port and the agents outside
the core (log entries 2 and 3). -/
structure State where
  /-- H[0..4], the accumulator (R21). -/
  h : Vector Word 5
  /-- A, a working register (R22). -/
  a : Word
  /-- B, a working register (R22). -/
  b : Word
  /-- C, a working register (R22). -/
  c : Word
  /-- D, a working register (R22). -/
  d : Word
  /-- E, a working register (R22). -/
  e : Word
  /-- W[0..79], the schedule store (R23). -/
  w : Vector Word 80
  /-- BUF[0..63], the block buffer (R24). -/
  buf : Vector Byte 64
  /-- DIGEST, the digest output register (R25). -/
  digest : BitVec 160
  /-- BITLEN, the message length in bits so far (R27). -/
  bitlen : BitVec 64
  /-- FILL, the number of bytes in BUF, 0..64 (R28). -/
  fill : Fin 65
  /-- PH, the phase of the sequencer (R30). -/
  ph : Phase
  /-- IDX, the index inside a phase, 0..79 (R31). -/
  idx : Fin 80
  /-- RSM, where to resume after a block (R32). -/
  rsm : Resume
  /-- DVALID, DIGEST holds a digest (R33). -/
  dvalid : Bool
  /-- ERR, the recorded fault cause (R34). -/
  err : ErrCode
  /-- The command presented and not yet accepted, if there is one; at most one (R192 (a)). -/
  port : Option CmdWord
  /-- What the outside does next, first turn first (R190, R194, R195). -/
  turns : List Turn
  /-- The responses given so far, oldest first (R74). -/
  responses : List Response
  /-- The model's own: how many reset events there were, the argument of the free values of Config (log entry 3). -/
  fresh : Nat
  deriving DecidableEq, Repr

/-- Why the machine is stuck. The spec's own faults are no constructor of this type: the core takes them as next states
in phase FAULT (R171). -/
inductive Fault where
  /-- Raised by `step` and by every command when (PH, IDX) is no state of the core: IDX outside the range of its phase,
  or not 0 in a phase that does not loop. R77: "it must refuse to step from such a state". Safe: no step is invented (log entry 5). -/
  | reservedSequencer
  /-- Raised by WRB, PADM, PADZ and PADL when FILL = 64: the precondition 0 ≤ FILL ≤ 63 of R95's push fails, there is no
  byte BUF[64], and R77 gives no state FILL = 65. Safe: no step is invented. -/
  | bufferFull
  deriving DecidableEq, Repr

/-- Why an instruction is refused. -/
inductive Refusal where
  /-- Raised by an arm of `exec` whose instruction has no meaning yet. Safe: nothing runs. -/
  | notModelled (mnemonic : String)
  /-- Raised by a micro-operation that the sequencer word PH ‖ IDX does not select: R76 makes the micro-operation a
  function of that word, and the host cannot issue one (R81). `step` never asks for such a one. Safe: nothing runs. -/
  | notSelected
  deriving DecidableEq, Repr

/-- What the next step is, found from the port, the turns and the phase (R80), before the instruction is run. -/
inductive Move where
  /-- The reset event happens in this state. -/
  | reset (s : State)
  /-- The instruction runs in this state. -/
  | execute (i : Instr) (s : State)
  /-- An illegal command word is accepted in this state. -/
  | illegal (s : State)
  /-- Nothing happens: this is the next state. -/
  | quiet (s : State)
  /-- The sequencer word is no state of the core. -/
  | reserved
  deriving DecidableEq, Repr

/-- R38: PH = IDLE, IDX = 0, RSM = R_ABSORB, DVALID = 0, ERR = 0. The registers the spec leaves unspecified hold zero
(log entry 1: DESIGN CHOICE, unsafe), nothing is at the port and nothing is to come (log entry 2). -/
def State.reset : State where
  h := Vector.replicate 5 0#32
  a := 0#32
  b := 0#32
  c := 0#32
  d := 0#32
  e := 0#32
  w := Vector.replicate 80 0#32
  buf := Vector.replicate 64 0#8
  digest := 0#160
  bitlen := 0#64
  fill := 0
  ph := .idle
  idx := 0
  rsm := .absorb
  dvalid := false
  err := .none
  port := none
  turns := []
  responses := []
  fresh := 0

end Sys2Proof.Machine
end

