-- ==== Sys2Proof/Machine/Flags.lean ====
section
/-! DEFINITION. The control and status views (spec 10_state.md R29, R30, R34): the codes of PH and ERR, the busy phases,
and the STATUS word that RDS reads (43_digest.md R151). Arithmetic sets no flag (R9, R33). -/

namespace Sys2Proof.Machine

/-- R30: the code of a phase in PH. -/
def Phase.code : Phase → BitVec 4
  | .idle => 0#4
  | .absorb => 1#4
  | .padm => 2#4
  | .padz => 3#4
  | .padl => 4#4
  | .ldw => 5#4
  | .exp => 6#4
  | .lds => 7#4
  | .rnd => 8#4
  | .chn => 9#4
  | .latch => 10#4
  | .done => 11#4
  | .fault => 15#4

/-- R30: the phase a code of PH names; 12, 13 and 14 name none. -/
def Phase.ofCode (x : BitVec 4) : Option Phase :=
  if x = 0#4 then some .idle
  else if x = 1#4 then some .absorb
  else if x = 2#4 then some .padm
  else if x = 3#4 then some .padz
  else if x = 4#4 then some .padl
  else if x = 5#4 then some .ldw
  else if x = 6#4 then some .exp
  else if x = 7#4 then some .lds
  else if x = 8#4 then some .rnd
  else if x = 9#4 then some .chn
  else if x = 10#4 then some .latch
  else if x = 11#4 then some .done
  else if x = 15#4 then some .fault
  else none

/-- R29, R30: the nine phases in which the core performs a micro-operation. -/
def Phase.busy : Phase → Bool
  | .padm => true
  | .padz => true
  | .padl => true
  | .ldw => true
  | .exp => true
  | .lds => true
  | .rnd => true
  | .chn => true
  | .latch => true
  | .idle => false
  | .absorb => false
  | .done => false
  | .fault => false

/-- R32: the code of a resume point in RSM. -/
def Resume.code : Resume → BitVec 2
  | .absorb => 0#2
  | .padz => 1#2
  | .latch => 2#2

/-- R32, R132: the phase at which CHN continues. -/
def Resume.phase : Resume → Phase
  | .absorb => .absorb
  | .padz => .padz
  | .latch => .latch

/-- R34, R165: the code of a cause in ERR. -/
def ErrCode.code : ErrCode → BitVec 4
  | .none => 0#4
  | .lenOverflow => 1#4
  | .internalInvariant => 2#4
  | .protocol => 3#4
  | .illegalCmd => 4#4

/-- R29, R151: the STATUS view: BUSY in bit 0, DVALID in bit 1, FAULT in bit 2, OPEN in bit 3, ERR in bits 7:4, zeros
above. -/
def State.status (s : State) : Word :=
  0#24 ++ (s.err.code
    ++ (BitVec.ofBool (decide (s.ph = .absorb))
      ++ (BitVec.ofBool (decide (s.err ≠ .none)) ++ (BitVec.ofBool s.dvalid ++ BitVec.ofBool s.ph.busy))))

end Sys2Proof.Machine
end

