-- ==== Sys2Proof/Machine/Operands.lean ====
section
/-! DEFINITION. The data-path functions: rotation (spec 00_scope.md R10), big-endian assembly and disassembly (R12, R52),
the round function and constant (42_compressor.md R126, R127), the initial accumulator (R125), and the fields of DIGEST
that RDW and RDB select (20_memory.md R52 (c)). -/

namespace Sys2Proof.Machine

/-- R10: rotation of a word to the left by `n`, 0 < n < 32. -/
def rotl (n : Nat) (x : Word) : Word := (x <<< n) ||| (x >>> (32 - n))

/-- R12: four bytes as a word, the first most significant. -/
def be32 (b0 b1 b2 b3 : Byte) : Word := ((b0 ++ b1) ++ b2) ++ b3

/-- R12: byte `j` of `be32bytes`, 0 the most significant. -/
def wordByte (v : Word) (j : Fin 4) : Byte := v.extractLsb' (24 - 8 * j.val) 8

/-- R12: a word as four bytes, most significant first. -/
def be32bytes (v : Word) : List Byte := (List.finRange 4).map (wordByte v)

/-- R12, R98: byte `k` of `be64bytes`, 0 the most significant. -/
def lengthByte (v : BitVec 64) (k : Fin 8) : Byte := v.extractLsb' (56 - 8 * k.val) 8

/-- R12: a 64-bit value as eight bytes, most significant first. -/
def be64bytes (v : BitVec 64) : List Byte := (List.finRange 8).map (lengthByte v)

/-- R125: the initial accumulator. -/
def iv : Vector Word 5 :=
  #v[0x67452301#32, 0xEFCDAB89#32, 0x98BADCFE#32, 0x10325476#32, 0xC3D2E1F0#32]

/-- R126: the round function of round `i`. -/
def roundF (i : Nat) (b c d : Word) : Word :=
  if i < 20 then (b &&& c) ||| (~~~b &&& d)
  else if i < 40 then b ^^^ c ^^^ d
  else if i < 60 then (b &&& c) ||| (b &&& d) ||| (c &&& d)
  else b ^^^ c ^^^ d

/-- R127: the round constant of round `i`. -/
def roundK (i : Nat) : Word :=
  if i < 20 then 0x5A827999#32
  else if i < 40 then 0x6ED9EBA1#32
  else if i < 60 then 0x8F1BBCDC#32
  else 0xCA62C1D6#32

/-- R115: the expanded word, from the words at distance 3, 8, 14 and 16. -/
def expandWord (w3 w8 w14 w16 : Word) : Word := rotl 1 (w3 ^^^ w8 ^^^ w14 ^^^ w16)

/-- R25, R147 (a): five words side by side, the first in bits 159:128. -/
def digestBits (h : Vector Word 5) : BitVec 160 := (((h[0] ++ h[1]) ++ h[2]) ++ h[3]) ++ h[4]

/-- R52 (c), R149: digest word `i`, bits 159-32i : 128-32i. -/
def digestWord (g : BitVec 160) (i : Fin 5) : Word := g.extractLsb' (128 - 32 * i.val) 32

/-- R52 (c), R150: digest byte `j`, bits 159-8j : 152-8j. -/
def digestByte (g : BitVec 160) (j : Fin 20) : Byte := g.extractLsb' (152 - 8 * j.val) 8

end Sys2Proof.Machine
end

