-- ==== Sys2Proof/Machine/Ops.lean ====
section
/-! DEFINITION. The shared operations: the sequencer word (spec 30_encoding.md R76, R77), the response (R74), taking a
fault and leaving one (60_exceptions.md R171, R172), the acceptance of a command (R80), the selection of a
micro-operation (R76), the push of a byte into the block buffer (40_padder.md R95), the reads of BUF (00_scope.md R14),
the writes of a schedule word, and the reset event (70_reset_and_hazards.md R190). -/

namespace Sys2Proof.Machine

/-- What a meaning answers. -/
abbrev Outcome := Host.Outcome State Fault Refusal

/-! ## The sequencer -/

/-- R76: the sequencer word `PH ‖ IDX`. -/
def State.seqWord (s : State) : SeqWord := s.ph.code ++ BitVec.ofNat 7 s.idx.val

/-- R77: (PH, IDX) is a state of the core: in a busy phase the sequencer word selects a micro-operation, in every other
phase IDX is 0 (R31). -/
def State.seqLegal (s : State) : Bool :=
  if s.ph.busy then
    match decodeSeq s.seqWord with
    | .ok _ => true
    | .error _ => false
  else decide (s.idx = 0)

/-- R76: the sequencer word selects the micro-operation `i`. -/
def State.selects (s : State) (i : Instr) : Bool :=
  match decodeSeq s.seqWord with
  | .ok j => decide (j = i)
  | .error _ => false

/-- R30: the control transfer of the sequencer, which writes PH and IDX. -/
def State.goto (s : State) (ph : Phase) (idx : Fin 80) : State := { s with ph := ph, idx := idx }

/-- R76: what a micro-operation does happens when the sequencer word selects it. -/
def State.perform (s : State) (i : Instr) (op : Outcome) : Outcome :=
  if s.selects i then op else .refused .notSelected

/-! ## Responses and faults -/

/-- R74: the response to the outstanding command, which frees the port. -/
def State.respond (s : State) (ok : Bool) (data : Word) : State :=
  { s with port := none, responses := s.responses ++ [⟨ok, data⟩] }

/-- R171, fault entry: the first cause is kept, PH becomes FAULT, DVALID is cleared, and nothing else is written. -/
def State.raise (s : State) (x : ErrCode) : State :=
  { s with err := if s.err = .none then x else s.err, ph := .fault, dvalid := false }

/-- R171: a fault raised by a command, whose response is (0, code). -/
def State.raiseCommand (s : State) (x : ErrCode) : State :=
  (s.raise x).respond false (x.code.setWidth 32)

/-- R172: a word refused in phase FAULT: response (0, ERR), no state change. -/
def State.refuseInFault (s : State) : State := s.respond false (s.err.code.setWidth 32)

/-- R92, R173: the way out of FAULT, and of every other phase in which no micro-operation runs: a new computation, which
owes nothing to the one before. There is no return from a fault (R173). -/
def State.openComputation (s : State) : State :=
  { s with
    h := iv, bitlen := 0#64, fill := 0, rsm := .absorb, idx := 0, dvalid := false, err := .none, ph := .absorb }

/-! ## Acceptance of a command -/

/-- R80, the cases for a command that is legal in the phases `legal`: performed there; held in a busy phase, which
changes nothing; refused in FAULT; and otherwise the fault `x` (PROTOCOL for a legal word, ILLEGAL_CMD for an illegal
one). R77: no step from a sequencer word that is no state. -/
def State.accept (s : State) (legal : Phase → Bool) (x : ErrCode) (op : Outcome) : Outcome :=
  if !s.seqLegal then .fault .reservedSequencer
  else if legal s.ph then op
  else if s.ph.busy then .next s
  else if s.ph = .fault then .next s.refuseInFault
  else .next (s.raiseCommand x)

/-- R80: INIT is legal in IDLE, ABSORB, DONE and FAULT. -/
def Phase.takesInit : Phase → Bool
  | .idle => true
  | .absorb => true
  | .done => true
  | .fault => true
  | .padm => false
  | .padz => false
  | .padl => false
  | .ldw => false
  | .exp => false
  | .lds => false
  | .rnd => false
  | .chn => false
  | .latch => false

/-- R80, R169, R172: an illegal command word is accepted: ILLEGAL_CMD, or a refusal in FAULT. -/
def State.acceptIllegal (s : State) : Outcome :=
  s.accept (fun _ => false) .illegalCmd (.next s)

/-! ## The indexed stores -/

/-- R14, R50: `BUF[a]`. -/
def State.bufByte (s : State) (i : Fin 64) : Byte := s.buf[i.val]

/-- R52 (a): `be32` of the four bytes at 4i. -/
def State.bufWord (s : State) (i : Fin 16) : Word :=
  be32 (s.bufByte ⟨4 * i.val, by omega⟩) (s.bufByte ⟨4 * i.val + 1, by omega⟩)
    (s.bufByte ⟨4 * i.val + 2, by omega⟩) (s.bufByte ⟨4 * i.val + 3, by omega⟩)

/-- R114, R115: write one word of the schedule store. -/
def State.setW (s : State) (i : Fin 80) (v : Word) : State := { s with w := s.w.set i.val v i.isLt }

/-- R95: the byte is stored at BUF[FILL] and FILL grows by one; where that completes the block, block processing starts
with resume code `r`. None when FILL = 64, where the precondition of R95 fails. -/
def State.push (s : State) (v : Byte) (r : Resume) : Option State :=
  if hf : s.fill.val < 64 then
    let t := { s with buf := s.buf.set s.fill.val v hf, fill := ⟨s.fill.val + 1, by omega⟩ }
    some (if s.fill.val + 1 = 64 then { t with rsm := r, ph := .ldw, idx := 0 } else t)
  else none

/-- R95: the push from here completes the block. -/
def State.completes (s : State) : Bool := decide (s.fill.val + 1 = 64)

/-- R93, R96 to R98: a push within a step: `closed` is what the step does besides where the push completes the block, and
`stay` where it does not, which for a padding step is the invoking rule's own writes to PH and IDX (R95). -/
def State.pushOr (s : State) (v : Byte) (r : Resume) (closed stay : State → State) : Outcome :=
  match s.push v r with
  | some t => .next (if s.completes then closed t else stay t)
  | none => .fault .bufferFull

/-- R27, R93: one more message byte is counted. -/
def State.countByte (s : State) : State := { s with bitlen := s.bitlen + 8#64 }

/-! ## Reset -/

/-- R190, R38: the reset event. The five control fields take their reset values, a held command is dropped without
response, and every other register of the core is a free value (log entry 3). -/
def State.resetEvent (s : State) : State :=
  { s with
    h := Config.resetH s.fresh
    a := (Config.resetWork s.fresh)[0]
    b := (Config.resetWork s.fresh)[1]
    c := (Config.resetWork s.fresh)[2]
    d := (Config.resetWork s.fresh)[3]
    e := (Config.resetWork s.fresh)[4]
    w := Config.resetW s.fresh
    buf := Config.resetBuf s.fresh
    digest := Config.resetDigest s.fresh
    bitlen := Config.resetBitlen s.fresh
    fill := Config.resetFill s.fresh
    ph := .idle
    idx := 0
    rsm := .absorb
    dvalid := false
    err := .none
    port := none
    fresh := s.fresh + 1 }

end Sys2Proof.Machine
end

