-- ==== Sys2Proof/Machine/Compressor.lean ====
section
/-! DEFINITION. The micro-operations of the compression round engine LDS, RND, CHN (spec 42_compressor.md R130 to
R132). -/

namespace Sys2Proof.Machine

/-- R130: the working registers are loaded from the accumulator. -/
def execLds (s : State) : Outcome :=
  s.perform .lds
    (.next ({ s with a := s.h[0], b := s.h[1], c := s.h[2], d := s.h[3], e := s.h[4] }.goto .rnd 0))

/-- R131: one round; all right-hand sides are the values before the step. -/
def execRnd (i : Fin 80) (s : State) : Outcome :=
  s.perform (.rnd i)
    (let t := { s with
        a := rotl 5 s.a + roundF i.val s.b s.c s.d + s.e + roundK i.val + s.w[i.val]
        b := s.a
        c := rotl 30 s.b
        d := s.c
        e := s.d }
     .next (if h : i.val < 79 then { t with idx := ⟨i.val + 1, by omega⟩ } else t.goto .chn 0))

/-- R132: the chaining addition, and the return from block processing to where RSM says. -/
def execChn (s : State) : Outcome :=
  s.perform .chn
    (.next ({ s with
        h := #v[s.h[0] + s.a, s.h[1] + s.b, s.h[2] + s.c, s.h[3] + s.d, s.h[4] + s.e]
        fill := 0 }.goto s.rsm.phase 0))

end Sys2Proof.Machine
end

