-- ==== Sys2Proof/Machine/DigestUnit.lean ====
section
/-! DEFINITION. The digest output register: the micro-operation LATCH and the read commands RDW, RDB, RDS (spec
43_digest.md R148 to R151). -/

namespace Sys2Proof.Machine

/-- R148. -/
def execLatch (s : State) : Outcome :=
  s.perform .latch (.next { s with digest := digestBits s.h, dvalid := true, ph := .done })

/-- R149: read digest word `i`. -/
def execRdw (i : Fin 5) (s : State) : Outcome :=
  s.accept (fun p => decide (p = .done)) .protocol (.next (s.respond true (digestWord s.digest i)))

/-- R150: read digest byte `j`, zero-extended. -/
def execRdb (j : Fin 20) (s : State) : Outcome :=
  s.accept (fun p => decide (p = .done)) .protocol
    (.next (s.respond true ((digestByte s.digest j).setWidth 32)))

/-- R151: read the status view, in every phase. -/
def execRds (s : State) : Outcome :=
  s.accept (fun _ => true) .protocol (.next (s.respond true s.status))

end Sys2Proof.Machine
end

