-- ==== Sys2Proof/Machine/Intake.lean ====
section
/-! DEFINITION. The host commands of message intake: INIT, WRB, FIN (spec 40_padder.md R92 to R94). -/

namespace Sys2Proof.Machine

/-- R92. -/
def execInit (s : State) : Outcome :=
  s.accept Phase.takesInit .protocol (.next (s.openComputation.respond true 0#32))

/-- R93: LEN_OVERFLOW at the 2^61-th byte, else BITLEN grows by 8 and the byte is pushed. -/
def execWrb (d : Byte) (s : State) : Outcome :=
  s.accept (fun p => decide (p = .absorb)) .protocol
    (if s.bitlen = 0xFFFFFFFFFFFFFFF8#64 then .next (s.raiseCommand .lenOverflow)
     else s.countByte.pushOr d .absorb (fun t => t.respond true 0#32) (fun t => t.respond true 0#32))

/-- R94. -/
def execFin (s : State) : Outcome :=
  s.accept (fun p => decide (p = .absorb)) .protocol (.next ({ s with ph := .padm }.respond true 0#32))

end Sys2Proof.Machine
end

