-- ==== Sys2Proof/Machine/Padder.lean ====
section
/-! DEFINITION. The padding micro-operations PADM, PADZ, PADL (spec 40_padder.md R96 to R98). -/

namespace Sys2Proof.Machine

/-- R96: push the mark byte. -/
def execPadm (s : State) : Outcome :=
  s.perform .padm (s.pushOr 0x80#8 .padz (fun t => t) (fun t => { t with ph := .padz }))

/-- R97: finish the zero-fill at FILL = 56, else push a zero byte. -/
def execPadz (s : State) : Outcome :=
  s.perform .padz (if s.fill.val = 56 then .next (s.goto .padl 0) else s.pushOr 0x00#8 .padz (fun t => t) (fun t => t))

/-- R98: push byte `k` of BITLEN. -/
def execPadl (k : Fin 8) (s : State) : Outcome :=
  s.perform (.padl k)
    (s.pushOr (lengthByte s.bitlen k) .latch (fun t => t) (fun t => { t with idx := ⟨k.val + 1, by omega⟩ }))

end Sys2Proof.Machine
end

