-- ==== Sys2Proof/Machine/Scheduler.lean ====
section
/-! DEFINITION. The micro-operations of the schedule expander LDW, EXP (spec 41_scheduler.md R114, R115). -/

namespace Sys2Proof.Machine

/-- R114: the partial-block assertion at i = 0, then one word from the block buffer. -/
def execLdw (i : Fin 16) (s : State) : Outcome :=
  s.perform (.ldw i)
    (if i.val = 0 ∧ s.fill.val ≠ 64 then .next (s.raise .internalInvariant)
     else
      let t := s.setW ⟨i.val, by omega⟩ (s.bufWord i)
      .next (if i.val = 15 then t.goto .exp 16 else { t with idx := ⟨i.val + 1, by omega⟩ }))

/-- R115: one expanded word. -/
def execExp (i : Fin 80) (s : State) : Outcome :=
  s.perform (.exp i)
    (let t := s.setW i
      (expandWord (s.w[i.val - 3]'(by omega)) (s.w[i.val - 8]'(by omega)) (s.w[i.val - 14]'(by omega))
        (s.w[i.val - 16]'(by omega)))
     .next (if h : i.val < 79 then { t with idx := ⟨i.val + 1, by omega⟩ } else t.goto .lds 0))

end Sys2Proof.Machine
end

