-- ==== Sys2Proof/Machine/Dispatch.lean ====
section
/-! DEFINITION. The one match from instructions to their meanings. -/

namespace Sys2Proof.Machine

def exec (i : Instr) (s : State) : Host.Outcome State Fault Refusal :=
  match i with
  | .init => Sys2Proof.Machine.execInit s
  | .wrb d => Sys2Proof.Machine.execWrb d s
  | .fin => Sys2Proof.Machine.execFin s
  | .rdw k => Sys2Proof.Machine.execRdw k s
  | .rdb j => Sys2Proof.Machine.execRdb j s
  | .rds => Sys2Proof.Machine.execRds s
  | .padm => Sys2Proof.Machine.execPadm s
  | .padz => Sys2Proof.Machine.execPadz s
  | .padl k => Sys2Proof.Machine.execPadl k s
  | .ldw k => Sys2Proof.Machine.execLdw k s
  | .exp k => Sys2Proof.Machine.execExp k s
  | .lds => Sys2Proof.Machine.execLds s
  | .rnd k => Sys2Proof.Machine.execRnd k s
  | .chn => Sys2Proof.Machine.execChn s
  | .latch => Sys2Proof.Machine.execLatch s

end Sys2Proof.Machine
end

