-- ==== Sys2Proof/Machine/Port.lean ====
section
/-! DEFINITION. Who moves next and with what: the acceptance of a presented word (spec 30_encoding.md R80), the core's
own step (R76, R194), the turns of the agents outside the core (R190, R195), and how a word of the opcode table is placed
so that the next step runs it. -/

namespace Sys2Proof.Machine

/-- R76, R194: the core's own step: in a busy phase the micro-operation the sequencer word selects, in any other phase
nothing. -/
def State.coreMove (s : State) : Move :=
  if s.ph.busy then
    match decodeSeq s.seqWord with
    | .ok i => .execute i s
    | .error _ => .reserved
  else if s.idx = 0 then .quiet s else .reserved

/-- R80 for the word `w` at the port: RDS is accepted in every phase; every other word is held in a busy phase, while the
core takes its step; otherwise the word is accepted, an instruction if it is legal. -/
def State.portMove (s : State) (w : CmdWord) : Move :=
  if w = 0x5000#16 ∨ s.ph.busy = false then
    match decodeCommand w with
    | .ok i => .execute i s
    | .error _ => .illegal s
  else s.coreMove

/-- What happens when no turn says otherwise: the word at the port is treated, else the core takes its step. -/
def State.ownMove (s : State) : Move :=
  match s.port with
  | some w => s.portMove w
  | none => s.coreMove

/-- The next move. The first turn is taken: a reset happens; the core gets its step, before any word at the port is
looked at again; a word is presented if the port is free, and otherwise waits, since at most one command is outstanding
(R192 (a)). With no turn left the core is never kept waiting (weak fairness, R194). The reading of the turns is log entry 7. -/
def State.nextMove (s : State) : Move :=
  match s.turns with
  | .reset :: r => .reset { s with turns := r }
  | .core :: r => { s with turns := r }.coreMove
  | .command w :: r =>
    match s.port with
    | none => { s with turns := r, port := some w }.ownMove
    | some _ => s.ownMove
  | [] => s.ownMove

/-- The word `w` placed for the very next step (log entry 8). A command word is presented by the host at a free port,
the phase being set to IDLE if it is busy and would hold the word; a sequencer word is written into PH and IDX and the
core is given the turn. -/
def State.place (s : State) : Encoded → State
  | .cmd16 w =>
    if s.ph.busy = true ∧ w ≠ 0x5000#16 then
      { s with port := none, turns := .command w :: s.turns, ph := .idle, idx := 0 }
    else { s with port := none, turns := .command w :: s.turns }
  | .seq11 w =>
    match Phase.ofCode (w.extractLsb' 7 4) with
    | some p =>
      if hk : seqIndex w < 80 then { s.goto p ⟨seqIndex w, hk⟩ with turns := .core :: s.turns } else s
    | none => s

end Sys2Proof.Machine
end

