-- ==== Sys2Proof/Machine/Step.lean ====
section
/-! DEFINITION. One atomic step of the machine (spec 70_reset_and_hazards.md R201): one accepted command, one
micro-operation, one reset event, or nothing. -/

namespace Sys2Proof.Machine

/-- One step: the move that the port, the turns and the phase give. -/
def step (s : State) : Host.Outcome State Fault Refusal :=
  match s.nextMove with
  | .reset t => .next t.resetEvent
  | .execute i t => exec i t
  | .illegal t => t.acceptIllegal
  | .quiet t => .next t
  | .reserved => .fault .reservedSequencer

/-- `s` with the table word `w` placed so that the very next step runs it. -/
def State.withFetchWord (s : State) (nbits w : Nat) : State := s.place (tableEncoded nbits w)

end Sys2Proof.Machine
end

