-- ==== Sys2Proof/Machine/Assembler.lean ====
section
/-! DEFINITION. The assembler syntax and the pseudo-instructions (spec 30_encoding.md R81, R82): a line of text is read
as an `Asm`, which expands to what the host does. Micro-operations cannot be assembled. An operand out of range is an
assembly error (`none`), not an illegal word. What R81 leaves open of blanks and quotes is in log entry 9. -/

namespace Sys2Proof.Machine

/-- R81, R82: one line of a program. -/
inductive Asm where
  | init
  | wrb (d : Nat)
  | fin
  | rdw (i : Nat)
  | rdb (j : Nat)
  | rds
  | word (n : Nat)
  | wrs (text : List Char)
  | msg (text : List Char)
  | rdd
  | rddb
  | wait
  deriving DecidableEq, Repr

/-- What a program makes the host do: present a word, or present RDS until a response has BUSY clear (R82, WAIT). -/
inductive HostOp where
  | send (w : CmdWord)
  | waitIdle
  deriving DecidableEq, Repr

/-- The word of a command; a micro-operation has none (R81). -/
def commandWord (i : Instr) : Option CmdWord :=
  match encode i with
  | .cmd16 w => some w
  | .seq11 _ => none

/-- The host presents the command `i`. -/
def sendInstr (i : Instr) : List HostOp := (commandWord i).toList.map .send

/-- R82: the characters WRS may hold: printable ASCII but the double quote. -/
def textChar (c : Char) : Bool := decide (0x20 ≤ c.toNat ∧ c.toNat ≤ 0x7E ∧ c.toNat ≠ 0x22)

/-- R82, WRS: one WRB per character. -/
def sendText (text : List Char) : Option (List HostOp) :=
  if text.all textChar then some (text.flatMap fun c => sendInstr (.wrb (BitVec.ofNat 8 c.toNat))) else none

/-- R82: the expansion of a line; none is an assembly error. -/
def Asm.expand : Asm → Option (List HostOp)
  | .init => some (sendInstr .init)
  | .wrb d => if d ≤ 255 then some (sendInstr (.wrb (BitVec.ofNat 8 d))) else none
  | .fin => some (sendInstr .fin)
  | .rdw i => if h : i < 5 then some (sendInstr (.rdw ⟨i, h⟩)) else none
  | .rdb j => if h : j < 20 then some (sendInstr (.rdb ⟨j, h⟩)) else none
  | .rds => some (sendInstr .rds)
  | .word n => if n ≤ 0xFFFF then some [.send (BitVec.ofNat 16 n)] else none
  | .wrs text => sendText text
  | .msg text =>
    match sendText text with
    | some l => some (sendInstr .init ++ l ++ sendInstr .fin)
    | none => none
  | .rdd => some ((List.finRange 5).flatMap fun i => sendInstr (.rdw i))
  | .rddb => some ((List.finRange 20).flatMap fun j => sendInstr (.rdb j))
  | .wait => some [.waitIdle]

/-- R82, WAIT: this response to RDS ends the wait: data[0] = 0. -/
def waitEnds (data : BitVec 32) : Bool := !data.getLsbD 0

/-- The word the host presents for this entry; a WAIT presents RDS. -/
def HostOp.word : HostOp → CmdWord
  | .send w => w
  | .waitIdle => 0x5000#16

/-- R82, WAIT: the words presented by a WAIT whose polls have been answered with these data: RDS, and again RDS after
every answer with BUSY set, and none after the first with BUSY clear. -/
def pollWords : List (BitVec 32) → List CmdWord
  | [] => [0x5000#16]
  | v :: seen => 0x5000#16 :: if waitEnds v then [] else pollWords seen

/-- R82: the words an entry presents, the polls of a WAIT having been answered with these data. -/
def HostOp.words (seen : List (BitVec 32)) : HostOp → List CmdWord
  | .send w => [w]
  | .waitIdle => pollWords seen

/-! ## Text -/

/-- The value of a digit in base 16, either case. -/
def digitValue (c : Char) : Option Nat :=
  let n := c.toNat
  if 0x30 ≤ n ∧ n ≤ 0x39 then some (n - 0x30)
  else if 0x41 ≤ n ∧ n ≤ 0x46 then some (n - 0x41 + 10)
  else if 0x61 ≤ n ∧ n ≤ 0x66 then some (n - 0x61 + 10)
  else none

/-- The digits of a number in the given base, after the value `acc` read so far. -/
def readDigits (base : Nat) : Nat → List Char → Option Nat
  | acc, [] => some acc
  | acc, c :: cs =>
    match digitValue c with
    | some v => if v < base then readDigits base (acc * base + v) cs else none
    | none => none

/-- R81: a number in decimal, or in hexadecimal with 0x. -/
def readNumber : List Char → Option Nat
  | [] => none
  | '0' :: 'x' :: c :: cs => readDigits 16 0 (c :: cs)
  | c :: cs => readDigits 10 0 (c :: cs)

/-- The text of a quoted operand. -/
def readText (l : List Char) : Option (List Char) :=
  match l with
  | [] => none
  | c :: cs =>
    if c.toNat = 0x22 then
      match cs.reverse with
      | [] => none
      | q :: rs => if q.toNat = 0x22 then some rs.reverse else none
    else none

/-- R81: the line without its comment; a semicolon between double quotes belongs to the text. -/
def dropComment : Bool → List Char → List Char
  | _, [] => []
  | quoted, c :: cs =>
    if c.toNat = 0x3B ∧ quoted = false then []
    else c :: dropComment (if c.toNat = 0x22 then !quoted else quoted) cs

/-- Blanks at both ends removed. -/
def trimBlanks (l : List Char) : List Char :=
  ((l.dropWhile fun c => c.toNat = 0x20).reverse.dropWhile fun c => c.toNat = 0x20).reverse

/-- R81: the line of a mnemonic and its operand, if it has one. -/
def readCommand (mnemonic operand : List Char) : Option Asm :=
  if operand.isEmpty then
    if mnemonic = ['I', 'N', 'I', 'T'] then some .init
    else if mnemonic = ['F', 'I', 'N'] then some .fin
    else if mnemonic = ['R', 'D', 'S'] then some .rds
    else if mnemonic = ['R', 'D', 'D'] then some .rdd
    else if mnemonic = ['R', 'D', 'D', 'B'] then some .rddb
    else if mnemonic = ['W', 'A', 'I', 'T'] then some .wait
    else none
  else if mnemonic = ['W', 'R', 'B'] then (readNumber operand).map .wrb
  else if mnemonic = ['R', 'D', 'W'] then (readNumber operand).map .rdw
  else if mnemonic = ['R', 'D', 'B'] then (readNumber operand).map .rdb
  else if mnemonic = ['.', 'w', 'o', 'r', 'd'] then (readNumber operand).map .word
  else if mnemonic = ['W', 'R', 'S'] then (readText operand).map .wrs
  else if mnemonic = ['M', 'S', 'G'] then (readText operand).map .msg
  else none

/-- R81: one line of text: nothing for a blank line, an assembly error as `none`. -/
def assembleLine (line : List Char) : Option (List HostOp) :=
  let l := trimBlanks (dropComment false line)
  if l.isEmpty then some []
  else
    match readCommand (l.takeWhile fun c => c.toNat ≠ 0x20) (trimBlanks (l.dropWhile fun c => c.toNat ≠ 0x20)) with
    | some a => a.expand
    | none => none

/-- R81: a program, line by line; an error in a line is an error of the program. -/
def assemble : List (List Char) → Option (List HostOp)
  | [] => some []
  | line :: rest =>
    match assembleLine line with
    | none => none
    | some ops =>
      match assemble rest with
      | none => none
      | some more => some (ops ++ more)

end Sys2Proof.Machine
end

