-- ==== Sys2Proof/Machine/Driver.lean ====
section
/-! DEFINITION. A host that runs an assembled program on the core (spec 30_encoding.md R82, 70_reset_and_hazards.md R192
(a), R195): it presents the next word when the port is free, and in a WAIT it presents RDS again until a response has
BUSY clear. The interleaving SCHEDULE is a list of grants (log entry 12). -/

namespace Sys2Proof.Machine

/-- R194: which agent may move at a step. -/
inductive Grant where
  /-- The host presents its next word, if the port is free and it has one. -/
  | host
  /-- The core takes its own step, if it has one. -/
  | core
  deriving DecidableEq, Repr

/-- A host, given by what is left of its program, and the core it drives. -/
structure Driven where
  prog : List HostOp
  core : State
  deriving DecidableEq, Repr

/-- What a step of the pair answers. -/
abbrev DrivenOutcome := Host.Outcome Driven Fault Refusal

/-- What the host presents when it may: the next word of its program, or nothing while a word is outstanding (R192 (a))
or when the program is at its end. -/
def Driven.hostTurns (d : Driven) : List Turn :=
  match d.core.port with
  | some _ => []
  | none =>
    match d.prog with
    | [] => []
    | op :: _ => [.command op.word]

/-- R82: what is left of the program after the host was granted a step that led the core to `t`: a word presented is
done with, and a WAIT is done with only when the response to its RDS, the last one of `t`, has BUSY clear. -/
def Driven.progAfter (d : Driven) (t : State) : List HostOp :=
  match d.core.port with
  | some _ => d.prog
  | none =>
    match d.prog with
    | [] => []
    | .send _ :: rest => rest
    | .waitIdle :: rest =>
      match t.responses.getLast? with
      | some r => if waitEnds r.data then rest else .waitIdle :: rest
      | none => .waitIdle :: rest

/-- One step of a core that a host drives. -/
def Driven.step (g : Grant) (d : Driven) : DrivenOutcome :=
  match g with
  | .core =>
    match Sys2Proof.Machine.step { d.core with turns := [.core] } with
    | .next t => .next ⟨d.prog, t⟩
    | .fault r => .fault r
    | .refused r => .refused r
  | .host =>
    match Sys2Proof.Machine.step { d.core with turns := d.hostTurns } with
    | .next t => .next ⟨d.progAfter t, t⟩
    | .fault r => .fault r
    | .refused r => .refused r

/-- R82: a program run under a schedule, one step a grant. -/
def Driven.run : List Grant → Driven → DrivenOutcome
  | [], d => .next d
  | g :: gs, d =>
    match d.step g with
    | .next t => Driven.run gs t
    | .fault r => .fault r
    | .refused r => .refused r

end Sys2Proof.Machine
end

