-- ==== Sys2Proof/Machine/Reference.lean ====
section
/-! DEFINITION. The reference layer (spec 00_scope.md R5): the pure functions the machine is to compute, from the padder
(40_padder.md R90) through the schedule (41_scheduler.md R110 to R113) and the rounds (42_compressor.md R128, R129) to
the digest (43_digest.md R145 to R147). The round function and constant of R126 and R127 are those of
Machine/Operands.lean. -/

namespace Sys2Proof.Machine.Reference

/-- R90: the number of zero bytes of the padding of a message of `len` bytes. -/
def zeroCount (len : Nat) : Nat := (64 - ((len + 1 + 8) % 64)) % 64

/-- R90, R101: the padded bytes; the domain is `m.length < 2^61`, and a statement about `pad` carries that bound (log
entry 11). -/
def pad (m : List Byte) : List Byte :=
  m ++ [0x80#8] ++ List.replicate (zeroCount m.length) 0x00#8 ++ be64bytes (BitVec.ofNat 64 (8 * m.length))

/-- R110, with the number of blocks counted down. -/
def blocksAux : Nat → List Byte → List (List Byte)
  | 0, _ => []
  | n + 1, p => p.take 64 :: blocksAux n (p.drop 64)

/-- R110: the consecutive 64-byte windows of the padded bytes, in order; the domain is `p.length % 64 = 0`
(log entry 11). -/
def blocks (p : List Byte) : List (List Byte) := blocksAux (p.length / 64) p

/-- R111: the sixteen big-endian words of a block. -/
def words (x : List Byte) : List Word :=
  (List.range 16).map fun i =>
    be32 (x.getD (4 * i) 0#8) (x.getD (4 * i + 1) 0#8) (x.getD (4 * i + 2) 0#8) (x.getD (4 * i + 3) 0#8)

/-- R112, one entry: the words at distance 3, 8, 14 and 16 from the end of `s`. -/
def expandNext (s : List Word) : Word :=
  expandWord (s.getD (s.length - 3) 0#32) (s.getD (s.length - 8) 0#32) (s.getD (s.length - 14) 0#32)
    (s.getD (s.length - 16) 0#32)

/-- R112, `n` entries more. -/
def expandBy : Nat → List Word → List Word
  | 0, s => s
  | n + 1, s => expandBy n (s ++ [expandNext s])

/-- R112: the eighty words of a schedule, from sixteen. -/
def expand (v : List Word) : List Word := expandBy 64 v

/-- R113: one schedule per block, in the order of the blocks. -/
def schedule (p : List Byte) : List (List Word) := (blocks p).map fun x => expand (words x)

/-- R128: five words a, b, c, d, e. -/
structure Five where
  a : Word
  b : Word
  c : Word
  d : Word
  e : Word
  deriving DecidableEq, Repr

/-- R125. -/
def initial : Five := ⟨0x67452301#32, 0xEFCDAB89#32, 0x98BADCFE#32, 0x10325476#32, 0xC3D2E1F0#32⟩

/-- R128: one round. -/
def round (i : Nat) (w : Word) (v : Five) : Five :=
  { a := rotl 5 v.a + roundF i v.b v.c v.d + v.e + roundK i + w
    b := v.a
    c := rotl 30 v.b
    d := v.c
    e := v.d }

/-- R129: the rounds `i`, `i + 1`, ... with the schedule words given. -/
def roundsFrom : Nat → List Word → Five → Five
  | _, [], v => v
  | i, w :: ws, v => roundsFrom (i + 1) ws (round i w v)

/-- R129: eighty rounds, then the element-wise sum with the state passed in. -/
def compress (s : List Word) (h : Five) : Five :=
  let v := roundsFrom 0 s h
  ⟨h.a + v.a, h.b + v.b, h.c + v.c, h.d + v.d, h.e + v.e⟩

/-- R145: the fold over the schedules, left to right. -/
def fold (ss : List (List Word)) : Five := ss.foldl (fun g s => compress s g) initial

/-- R146: the digest of a message of fewer than 2^61 bytes. -/
def digest (m : List Byte) : Five := fold (schedule (pad m))

/-- R147 (b): the digest as five words in fixed order. -/
def Five.words (g : Five) : Vector Word 5 := #v[g.a, g.b, g.c, g.d, g.e]

/-- R147 (a): the digest as one 160-bit value. -/
def Five.bits (g : Five) : BitVec 160 := digestBits g.words

/-- R147 (c): the digest as twenty bytes, most significant first. -/
def Five.bytes (g : Five) : List Byte :=
  be32bytes g.a ++ be32bytes g.b ++ be32bytes g.c ++ be32bytes g.d ++ be32bytes g.e

/-- R200 (b): the number of micro-operations from FIN to DONE for a message of `len` bytes. -/
def stepsAfterFin (len : Nat) : Nat :=
  zeroCount len + 11 + 162 * (if len % 64 ≤ 55 then 1 else 2)

/-- R200 (c): the number of micro-operations of a whole computation of `len` bytes. -/
def stepsInAll (len : Nat) : Nat := 162 * (len / 64) + stepsAfterFin len

end Sys2Proof.Machine.Reference
end

