-- ==== Sys2Proof/Safety.lean ====
section
/-! DEFINITION. What a safe run of the core is, in the terms the claims use: the invariant of the reachable states (spec
10_state.md R40), the registers and what each step may write (R35), the phase graph (R39), the end of a run
(70_reset_and_hazards.md R196), the registers that are live in a phase (R40 (k), 20_memory.md R59), the control part of
the state (R202), and runs of several steps. -/

namespace Sys2Proof.Machine

/-! ## The invariant -/

/-- R40 (b), (c), (d), (g) and R28, per phase. -/
def State.phaseInv (s : State) : Prop :=
  match s.ph with
  | .idle => True
  | .fault => True
  | .absorb => s.fill.val = s.bitlen.toNat / 8 % 64
  | .padm => s.fill.val = s.bitlen.toNat / 8 % 64
  | .padz => s.fill.val ≤ 63
  | .padl => s.fill.val = 56 + s.idx.val
  | .ldw => s.fill.val = 64 ∧ (s.rsm = .absorb → s.bitlen.toNat / 8 % 64 = 0)
  | .exp => s.fill.val = 64 ∧ (s.rsm = .absorb → s.bitlen.toNat / 8 % 64 = 0)
  | .lds => s.fill.val = 64 ∧ (s.rsm = .absorb → s.bitlen.toNat / 8 % 64 = 0)
  | .rnd => s.fill.val = 64 ∧ (s.rsm = .absorb → s.bitlen.toNat / 8 % 64 = 0)
  | .chn => s.fill.val = 64 ∧ (s.rsm = .absorb → s.bitlen.toNat / 8 % 64 = 0)
  | .latch => s.fill.val = 0
  | .done => s.fill.val = 0

/-- R40: the invariant of the states reachable from reset, as far as one state can show it. -/
structure State.Inv (s : State) : Prop where
  /-- R77: (PH, IDX) is a state of the core. -/
  seq : s.seqLegal = true
  /-- R40 (b), (c), (d), (g). -/
  phase : s.phaseInv
  /-- R40 (j), R27: BITLEN is a multiple of 8 once an INIT has written it. -/
  bits : s.ph ≠ .idle → s.ph ≠ .fault → s.bitlen.toNat % 8 = 0
  /-- R40 (h). -/
  valid : s.dvalid = true ↔ s.ph = .done
  /-- R40 (i). -/
  cause : s.err ≠ .none ↔ s.ph = .fault

/-! ## Write sets -/

/-- The columns of R35's table. -/
inductive Reg where
  | h | work | w | buf | digest | bitlen | fill | ph | idx | rsm | dvalid | err
  deriving DecidableEq, Repr

/-- The register has the same content in both states. -/
def Reg.same (r : Reg) (s t : State) : Prop :=
  match r with
  | .h => t.h = s.h
  | .work => t.a = s.a ∧ t.b = s.b ∧ t.c = s.c ∧ t.d = s.d ∧ t.e = s.e
  | .w => t.w = s.w
  | .buf => t.buf = s.buf
  | .digest => t.digest = s.digest
  | .bitlen => t.bitlen = s.bitlen
  | .fill => t.fill = s.fill
  | .ph => t.ph = s.ph
  | .idx => t.idx = s.idx
  | .rsm => t.rsm = s.rsm
  | .dvalid => t.dvalid = s.dvalid
  | .err => t.err = s.err

/-- R35: the registers the row of a step marks as written, when it raises no fault. -/
def writesOf : Instr → List Reg
  | .init => [.h, .bitlen, .fill, .ph, .idx, .rsm, .dvalid, .err]
  | .wrb _ => [.buf, .bitlen, .fill, .ph, .idx, .rsm]
  | .fin => [.ph]
  | .rdw _ => []
  | .rdb _ => []
  | .rds => []
  | .padm => [.buf, .fill, .ph, .idx, .rsm]
  | .padz => [.buf, .fill, .ph, .idx, .rsm]
  | .padl _ => [.buf, .fill, .ph, .idx, .rsm]
  | .ldw _ => [.w, .ph, .idx]
  | .exp _ => [.w, .ph, .idx]
  | .lds => [.work, .ph, .idx]
  | .rnd _ => [.work, .ph, .idx]
  | .chn => [.h, .fill, .ph, .idx]
  | .latch => [.digest, .ph, .dvalid]

/-- R35: the row of fault entry. -/
def faultWrites : List Reg := [.ph, .dvalid, .err]

/-! ## The phase graph and the end of a run -/

/-- R39: the phases that can follow a phase by a step of the core or a command, a reset apart. -/
def Phase.next : Phase → List Phase
  | .idle => [.idle, .absorb, .fault]
  | .absorb => [.absorb, .ldw, .padm, .fault]
  | .padm => [.padm, .padz, .ldw]
  | .padz => [.padz, .padl, .ldw]
  | .padl => [.padl, .ldw]
  | .ldw => [.ldw, .exp]
  | .exp => [.exp, .lds]
  | .lds => [.lds, .rnd]
  | .rnd => [.rnd, .chn]
  | .chn => [.chn, .absorb, .padz, .latch]
  | .latch => [.latch, .done]
  | .done => [.done, .absorb, .fault]
  | .fault => [.fault, .absorb]

/-- R196: the computation has ended, with success or with failure. -/
def State.ended (s : State) : Bool := decide (s.ph = .done) || decide (s.ph = .fault)

/-! ## What a later step can read -/

/-- The registers that are live in the phase of `s` (R40 (k)) agree in `s` and `t`. -/
def State.liveSame (s t : State) : Prop :=
  match s.ph with
  | .idle => True
  | .fault => True
  | .absorb => s.h = t.h ∧ s.bitlen = t.bitlen ∧ s.fill = t.fill
      ∧ ∀ i : Fin 64, i.val < s.fill.val → s.bufByte i = t.bufByte i
  | .padm => s.h = t.h ∧ s.bitlen = t.bitlen ∧ s.fill = t.fill
      ∧ ∀ i : Fin 64, i.val < s.fill.val → s.bufByte i = t.bufByte i
  | .padz => s.h = t.h ∧ s.bitlen = t.bitlen ∧ s.fill = t.fill
      ∧ ∀ i : Fin 64, i.val < s.fill.val → s.bufByte i = t.bufByte i
  | .padl => s.h = t.h ∧ s.bitlen = t.bitlen ∧ s.fill = t.fill
      ∧ ∀ i : Fin 64, i.val < s.fill.val → s.bufByte i = t.bufByte i
  | .ldw => s.h = t.h ∧ s.bitlen = t.bitlen ∧ s.rsm = t.rsm ∧ s.fill = t.fill ∧ s.buf = t.buf
      ∧ ∀ i : Fin 80, i.val < s.idx.val → s.w[i.val] = t.w[i.val]
  | .exp => s.h = t.h ∧ s.bitlen = t.bitlen ∧ s.rsm = t.rsm
      ∧ ∀ i : Fin 80, i.val < s.idx.val → s.w[i.val] = t.w[i.val]
  | .lds => s.h = t.h ∧ s.bitlen = t.bitlen ∧ s.rsm = t.rsm ∧ s.w = t.w
  | .rnd => s.h = t.h ∧ s.bitlen = t.bitlen ∧ s.rsm = t.rsm ∧ s.w = t.w
      ∧ s.a = t.a ∧ s.b = t.b ∧ s.c = t.c ∧ s.d = t.d ∧ s.e = t.e
  | .chn => s.h = t.h ∧ s.bitlen = t.bitlen ∧ s.rsm = t.rsm
      ∧ s.a = t.a ∧ s.b = t.b ∧ s.c = t.c ∧ s.d = t.d ∧ s.e = t.e
  | .latch => s.h = t.h
  | .done => s.digest = t.digest

/-- Two states that no later response can tell apart: the same control state, port, turns and responses, and the same
live registers. The counter of the free values is not compared. -/
structure State.alike (s t : State) : Prop where
  ph : s.ph = t.ph
  idx : s.idx = t.idx
  dvalid : s.dvalid = t.dvalid
  err : s.err = t.err
  port : s.port = t.port
  turns : s.turns = t.turns
  responses : s.responses = t.responses
  live : s.liveSame t

/-- Two command words that differ at most in a message byte: equal, or both words of WRB. -/
def sameShape (v w : CmdWord) : Prop := v = w ∨ (v &&& 0xFF00#16 = 0x1000#16 ∧ w &&& 0xFF00#16 = 0x1000#16)

/-- Two turns that differ at most in a message byte. -/
def Turn.sameShape : Turn → Turn → Prop
  | .core, .core => True
  | .reset, .reset => True
  | .command v, .command w => Sys2Proof.Machine.sameShape v w
  | _, _ => False

/-- R202: the same control state: everything but the data registers, the responses, and the message bytes to come. -/
structure State.sameControl (s t : State) : Prop where
  ph : s.ph = t.ph
  idx : s.idx = t.idx
  rsm : s.rsm = t.rsm
  fill : s.fill = t.fill
  bitlen : s.bitlen = t.bitlen
  dvalid : s.dvalid = t.dvalid
  err : s.err = t.err
  fresh : s.fresh = t.fresh
  port : (s.port = none ∧ t.port = none) ∨ ∃ v w, s.port = some v ∧ t.port = some w ∧ sameShape v w
  turns : List.Forall₂ Turn.sameShape s.turns t.turns

/-! ## Runs -/

/-- `n` steps. -/
def runFor : Nat → State → Outcome
  | 0, s => .next s
  | n + 1, s =>
    match step s with
    | .next t => runFor n t
    | .fault r => .fault r
    | .refused r => .refused r

/-- The outside is quiet: no turn is left, and no RDS is at the port, so that a busy core takes its own steps. -/
def State.quietOutside (s : State) : Bool := decide (s.turns = []) && decide (s.port ≠ some 0x5000#16)

/-- R191: the turns of a host that hashes the message `m`: INIT, one WRB per byte, FIN. -/
def messageTurns (m : List Byte) : List Turn :=
  .command 0x0000#16 :: (m.map fun d => .command (0x10#8 ++ d)) ++ [.command 0x2000#16]

/-- R21: the accumulator as the five words of the reference layer. -/
def State.five (s : State) : Reference.Five := ⟨s.h[0], s.h[1], s.h[2], s.h[3], s.h[4]⟩

end Sys2Proof.Machine
end

