-- ==== Sys2Proof/Certificates/Slice0/Obligations.lean ====
section
/-! DEFINITION. The statements for the provers, each named after what it states and citing the rules of spec/ it
formalises. Where a statement names the fields `port`, `turns`, `responses` or `fresh`, or one of the model's own stops,
those are the model's (log entries 2, 3, 5 and 7), and its entry of OBLIGATIONS.json says so. -/

open Sys2Proof Sys2Proof.Machine

/-! ## Parts that several statements share -/

/-- R165: the code of a cause, as a number. -/
def Sys2Proof.Claims.codeOf : ErrCode → Nat
  | .none => 0
  | .lenOverflow => 1
  | .internalInvariant => 2
  | .protocol => 3
  | .illegalCmd => 4

/-- R74: `s` after the command at the port was answered with `(ok, data)`. That the port is a field and the responses are
a list is the model's way to hold them (log entry 2). -/
def Sys2Proof.Claims.answered (s : State) (ok : Bool) (data : Word) : State :=
  { s with port := none, responses := s.responses ++ [⟨ok, data⟩] }

/-- R171: `s` after a command raised the fault `x`: the first cause is kept, PH = FAULT, DVALID = 0, response
(0, code), and every other register as before. -/
def Sys2Proof.Claims.faulted (s : State) (x : ErrCode) : State :=
  { s with
    err := if s.err = .none then x else s.err, ph := .fault, dvalid := false,
    port := none, responses := s.responses ++ [⟨false, BitVec.ofNat 32 (Sys2Proof.Claims.codeOf x)⟩] }

/-- R80, case 2: the command changes nothing while the core is busy. -/
def Sys2Proof.Claims.HeldWhileBusy (i : Instr) : Prop :=
  ∀ s : State, s.seqLegal = true → s.ph.busy = true → exec i s = .next s

/-- R80, case 3, R172: in FAULT the command is refused with (0, ERR). -/
def Sys2Proof.Claims.RefusedInFault (i : Instr) : Prop :=
  ∀ s : State, s.ph = .fault → s.idx = 0 →
    exec i s = .next (Sys2Proof.Claims.answered s false (BitVec.ofNat 32 (Sys2Proof.Claims.codeOf s.err)))

/-- R80, case 5, R168: in this phase the command raises PROTOCOL. -/
def Sys2Proof.Claims.ProtocolIn (i : Instr) (p : Phase) : Prop :=
  ∀ s : State, s.ph = p → s.idx = 0 → exec i s = .next (Sys2Proof.Claims.faulted s .protocol)

/-- R75: the illegal command words, by OP = w / 2^12, Z and ARG. -/
def Sys2Proof.Claims.IllegalWord (w : CmdWord) : Prop :=
  6 ≤ w.toNat / 4096 ∨ w.toNat / 256 % 16 ≠ 0 ∨
  ((w.toNat / 4096 = 0 ∨ w.toNat / 4096 = 2 ∨ w.toNat / 4096 = 5) ∧ w.toNat % 256 ≠ 0) ∨
  (w.toNat / 4096 = 3 ∧ 5 ≤ w.toNat % 256) ∨
  (w.toNat / 4096 = 4 ∧ 20 ≤ w.toNat % 256)

/-- R80: the step at `s` treats the word `w` in the state `u`: `w` is at the port, with no turn left or only a word
waiting behind it, or the first turn presents it at a free port. How words stand at the port is log entries 2 and 7. -/
def Sys2Proof.Claims.Delivers (s : State) (w : CmdWord) (u : State) : Prop :=
  (s.port = some w ∧ (s.turns = [] ∨ ∃ v r, s.turns = .command v :: r) ∧ u = s) ∨
  (s.port = none ∧ ∃ r, s.turns = .command w :: r ∧ u = { s with port := some w, turns := r })

/-- R160: a turn of the host that opens, feeds or closes a message: no turn left to the core and no RDS. -/
def Sys2Proof.Claims.ofMessage : Turn → Bool
  | .core => false
  | .command w => decide (w ≠ 0x5000#16)
  | .reset => true

/-- The words a list of turns presents. -/
def Sys2Proof.Claims.presented : List Turn → List CmdWord
  | [] => []
  | .command w :: r => w :: Sys2Proof.Claims.presented r
  | .core :: r => Sys2Proof.Claims.presented r
  | .reset :: r => Sys2Proof.Claims.presented r

open Sys2Proof.Claims

/-! ## Encoding -/

/-- R72, R76: no bit of an encoding is dropped, over all instructions and all operands. -/
def Obligations.DecodeOfEncode : Prop :=
  ∀ i : Instr, i.wellFormed = true → decode (encode i) = .ok i

/-- R72, R76: every word that decodes is the one encoding of what it decodes to, and that is well formed. -/
def Obligations.EncodeOfDecode : Prop :=
  ∀ (x : Encoded) (i : Instr), decode x = .ok i → encode i = x ∧ i.wellFormed = true

/-- R72, R75: the illegal command words are those of R75's list and no others. -/
def Obligations.IllegalWordsAreThese : Prop :=
  ∀ w : CmdWord, decodeCommand w = .error .illegalCommand ↔ IllegalWord w

/-- R72, R76: words written out from the encodings decode to what they stand for. -/
def Obligations.SpecWordsDecode : Prop :=
  decodeCommand 0b0000000000000000#16 = .ok .init ∧
  decodeCommand 0b0001000001100001#16 = .ok (.wrb 0x61#8) ∧
  decodeCommand 0b0011000000000100#16 = .ok (.rdw 4) ∧
  decodeCommand 0b0100000000010011#16 = .ok (.rdb 19) ∧
  decodeSeq 0b01000000111#11 = .ok (.padl 7) ∧
  decodeSeq 0b01010001111#11 = .ok (.ldw 15) ∧
  decodeSeq 0b01100010000#11 = .ok (.exp 16) ∧
  decodeSeq 0b10001001111#11 = .ok (.rnd 79)

/-! ## Dispatch -/

/-- R80, R76: a step is the run of the decoded instruction, in the state with the word at the port and the turn taken. -/
def Obligations.StepRunsDecoded : Prop :=
  (∀ (s : State) (w : CmdWord) (r : List Turn) (i : Instr),
    s.port = none → s.turns = .command w :: r → decodeCommand w = .ok i → (w = 0x5000#16 ∨ s.ph.busy = false) →
      step s = exec i { s with port := some w, turns := r }) ∧
  (∀ (s : State) (w : CmdWord) (i : Instr),
    s.port = some w → (s.turns = [] ∨ ∃ v r, s.turns = .command v :: r) → decodeCommand w = .ok i →
      (w = 0x5000#16 ∨ s.ph.busy = false) → step s = exec i s) ∧
  (∀ (s : State) (i : Instr), s.quietOutside = true → s.ph.busy = true → decodeSeq s.seqWord = .ok i →
      step s = exec i s) ∧
  (∀ (s : State) (w : CmdWord) (i : Instr), s.port = some w → w ≠ 0x5000#16 →
      (∃ v r, s.turns = .command v :: r) → s.ph.busy = true → decodeSeq s.seqWord = .ok i → step s = exec i s) ∧
  (∀ (s : State) (w : CmdWord) (r : List Turn) (i : Instr), s.port = none → w ≠ 0x5000#16 →
      s.turns = .command w :: r → s.ph.busy = true → decodeSeq s.seqWord = .ok i →
      step s = exec i { s with port := some w, turns := r }) ∧
  (∀ (s : State) (r : List Turn) (i : Instr), s.turns = .core :: r → s.ph.busy = true →
      decodeSeq s.seqWord = .ok i → step s = exec i { s with turns := r })

/-- R178: when the core is not busy and nothing is presented, nothing happens. -/
def Obligations.QuietWhenNotBusy : Prop :=
  ∀ s : State, s.ph.busy = false → s.idx = 0 → s.port = none →
    (s.turns = [] → step s = .next s) ∧ (∀ r, s.turns = .core :: r → step s = .next { s with turns := r })

/-- R75: the illegal words, and what an illegal word at the port, or presented now, does by the phase. -/
def Obligations.IllegalWordTreated : Prop :=
  ∀ (s u : State) (w : CmdWord), s.seqLegal = true → Delivers s w u → IllegalWord w →
      decodeCommand w = .error .illegalCommand ∧
      (s.ph = .idle ∨ s.ph = .absorb ∨ s.ph = .done → step s = .next (faulted u .illegalCmd)) ∧
      (s.ph = .fault → step s = .next (answered u false (BitVec.ofNat 32 (codeOf s.err)))) ∧
      (s.ph.busy = true → ∃ i, decodeSeq s.seqWord = .ok i ∧ step s = exec i u ∧
        ∀ t, exec i u = .next t → t.port = some w ∧ t.responses = s.responses)

/-- R172: in FAULT the core takes no step of its own, RDS reports the cause, INIT opens a computation, and every other
word, legal or illegal, at the port or presented now, is refused with (0, ERR) and changes nothing. -/
def Obligations.FaultRefusesEveryOtherWord : Prop :=
  ∀ s : State, s.ph = .fault → s.idx = 0 →
    (s.port = none → s.turns = [] → step s = .next s) ∧
    (∀ r, s.turns = .core :: r → step s = .next { s with turns := r }) ∧
    ∀ (u : State) (w : CmdWord), Delivers s w u →
      (w = 0x5000#16 → ∃ v : Word, step s = .next (answered u true v) ∧
        (v.getLsbD 2 = true ↔ s.err ≠ .none) ∧ v.toNat / 16 % 16 = codeOf s.err) ∧
      (w = 0x0000#16 → ∃ t, step s = .next t ∧ t.ph = .absorb ∧ t.err = .none ∧
        t.responses = s.responses ++ [⟨true, 0#32⟩]) ∧
      (w ≠ 0x5000#16 → w ≠ 0x0000#16 → step s = .next (answered u false (BitVec.ofNat 32 (codeOf s.err))))

/-- R165, R170, R171: the causes of a fault are these, each in its conditions, and fault entry writes what R171 says and
nothing else; first by the instruction, then for a step, where an illegal word is the one cause more. -/
def Obligations.FaultsAreThese : Prop :=
  (∀ (i : Instr) (s t : State), s.ph ≠ .fault → exec i s = .next t → t.ph = .fault →
    (s.ph = .absorb ∧ s.bitlen = 0xFFFFFFFFFFFFFFF8#64 ∧ (∃ d, i = .wrb d) ∧ t = faulted s .lenOverflow) ∨
    (s.ph = .ldw ∧ s.fill.val ≠ 64 ∧ i = .ldw 0 ∧
      t = { s with err := if s.err = .none then .internalInvariant else s.err, ph := .fault, dvalid := false }) ∨
    ((s.ph = .idle ∨ s.ph = .done) ∧ (i = .fin ∨ ∃ d, i = .wrb d) ∧ t = faulted s .protocol) ∨
    ((s.ph = .idle ∨ s.ph = .absorb) ∧ ((∃ k, i = .rdw k) ∨ ∃ j, i = .rdb j) ∧ t = faulted s .protocol)) ∧
  (∀ s t : State, s.ph ≠ .fault → step s = .next t → t.ph = .fault →
    (∀ r : Reg, r ∉ faultWrites → r.same s t) ∧ t.dvalid = false ∧
    ∃ x : ErrCode, t.err = (if s.err = .none then x else s.err) ∧
      ((x = .lenOverflow ∧ s.ph = .absorb ∧ s.bitlen = 0xFFFFFFFFFFFFFFF8#64) ∨
       (x = .internalInvariant ∧ s.ph = .ldw ∧ s.idx = 0 ∧ s.fill.val ≠ 64) ∨
       ((x = .protocol ∨ x = .illegalCmd) ∧ (s.ph = .idle ∨ s.ph = .absorb ∨ s.ph = .done))))

/-- R74: a command that is accepted gets exactly one response, a held one none; a micro-operation touches neither the
port nor the responses; no instruction touches the turns to come or the counter of the free values. -/
def Obligations.OneResponsePerCommand : Prop :=
  ∀ (i : Instr) (s t : State), exec i s = .next t →
    t.turns = s.turns ∧ t.fresh = s.fresh ∧
    (i.isCommand = true →
      (s.ph.busy = true ∧ t = s) ∨ (t.port = none ∧ ∃ r : Response, t.responses = s.responses ++ [r])) ∧
    (i.isCommand = false → t.port = s.port ∧ t.responses = s.responses)

/-- R77: from a state that is no state of the core no step is taken, a reset apart. -/
def Obligations.ReservedStateStops : Prop :=
  ∀ s : State, s.seqLegal = false → (∀ r, s.turns ≠ .reset :: r) → step s = .fault .reservedSequencer

/-- R76: a micro-operation is performed only where the sequencer word selects it. -/
def Obligations.MicroOperationNeedsItsWord : Prop :=
  ∀ (i : Instr) (s : State), i.isCommand = false → decodeSeq s.seqWord ≠ .ok i → exec i s = .refused .notSelected

/-- R95: at FILL = 64, where the precondition of a push fails, the model stops the pushing steps. -/
def Obligations.PushOnFullBufferStops : Prop :=
  ∀ s : State, s.fill.val = 64 →
    (s.ph = .padm → s.idx = 0 → exec .padm s = .fault .bufferFull) ∧
    (s.ph = .padz → s.idx = 0 → exec .padz s = .fault .bufferFull) ∧
    (∀ k : Fin 8, s.ph = .padl → s.idx.val = k.val → exec (.padl k) s = .fault .bufferFull) ∧
    (∀ d : Byte, s.ph = .absorb → s.idx = 0 → s.bitlen ≠ 0xFFFFFFFFFFFFFFF8#64 →
      exec (.wrb d) s = .fault .bufferFull)

/-! ## The host commands -/

/-- R92. -/
def Obligations.InitRule : Prop :=
  decodeCommand 0x0000#16 = .ok .init ∧ HeldWhileBusy .init ∧
  ∀ s : State, s.idx = 0 → (s.ph = .idle ∨ s.ph = .absorb ∨ s.ph = .done ∨ s.ph = .fault) →
    exec .init s = .next (answered { s with
      h := #v[0x67452301#32, 0xEFCDAB89#32, 0x98BADCFE#32, 0x10325476#32, 0xC3D2E1F0#32]
      bitlen := 0#64
      fill := 0
      rsm := .absorb
      idx := 0
      dvalid := false
      err := .none
      ph := .absorb } true 0#32)

/-- R93 with R95's push. -/
def Obligations.WrbRule : Prop :=
  ∀ d : Byte, decodeCommand (0x10#8 ++ d) = .ok (.wrb d) ∧ HeldWhileBusy (.wrb d) ∧ RefusedInFault (.wrb d) ∧
    ProtocolIn (.wrb d) .idle ∧ ProtocolIn (.wrb d) .done ∧
    ∀ s : State, s.ph = .absorb → s.idx = 0 →
      (s.bitlen = 0xFFFFFFFFFFFFFFF8#64 → exec (.wrb d) s = .next (faulted s .lenOverflow)) ∧
      (s.bitlen ≠ 0xFFFFFFFFFFFFFFF8#64 → ∀ hf : s.fill.val < 63,
        exec (.wrb d) s = .next (answered { s with
          bitlen := s.bitlen + 8#64
          buf := s.buf.set s.fill.val d (by omega)
          fill := ⟨s.fill.val + 1, by omega⟩ } true 0#32)) ∧
      (s.bitlen ≠ 0xFFFFFFFFFFFFFFF8#64 → ∀ hf : s.fill.val = 63,
        exec (.wrb d) s = .next (answered { s with
          bitlen := s.bitlen + 8#64
          buf := s.buf.set 63 d
          fill := 64
          rsm := .absorb
          ph := .ldw
          idx := 0 } true 0#32))

/-- R94. -/
def Obligations.FinRule : Prop :=
  decodeCommand 0x2000#16 = .ok .fin ∧ HeldWhileBusy .fin ∧ RefusedInFault .fin ∧
  ProtocolIn .fin .idle ∧ ProtocolIn .fin .done ∧
  ∀ s : State, s.ph = .absorb → s.idx = 0 → exec .fin s = .next (answered { s with ph := .padm } true 0#32)

/-- R149: the word is bits 159-32i : 128-32i of DIGEST. -/
def Obligations.RdwRule : Prop :=
  (∀ a : Fin 256, 5 ≤ a.val → decodeCommand (0x3000#16 + BitVec.ofNat 16 a.val) = .error .illegalCommand) ∧
  ∀ i : Fin 5, decodeCommand (0x3000#16 + BitVec.ofNat 16 i.val) = .ok (.rdw i) ∧
    HeldWhileBusy (.rdw i) ∧ RefusedInFault (.rdw i) ∧ ProtocolIn (.rdw i) .idle ∧ ProtocolIn (.rdw i) .absorb ∧
    ∀ s : State, s.ph = .done → s.idx = 0 →
      exec (.rdw i) s = .next (answered s true (BitVec.ofNat 32 (s.digest.toNat / 2 ^ (128 - 32 * i.val))))

/-- R150: the byte is bits 159-8j : 152-8j of DIGEST, zero-extended. -/
def Obligations.RdbRule : Prop :=
  (∀ a : Fin 256, 20 ≤ a.val → decodeCommand (0x4000#16 + BitVec.ofNat 16 a.val) = .error .illegalCommand) ∧
  ∀ j : Fin 20, decodeCommand (0x4000#16 + BitVec.ofNat 16 j.val) = .ok (.rdb j) ∧
    HeldWhileBusy (.rdb j) ∧ RefusedInFault (.rdb j) ∧ ProtocolIn (.rdb j) .idle ∧ ProtocolIn (.rdb j) .absorb ∧
    ∀ s : State, s.ph = .done → s.idx = 0 →
      exec (.rdb j) s = .next (answered s true (BitVec.ofNat 32 (s.digest.toNat / 2 ^ (152 - 8 * j.val) % 256)))

/-- R151: RDS answers (1, STATUS) in every phase and changes nothing else; STATUS bit by bit; and its possible
values, which the spec marks as derived from R40 (h) and (i). -/
def Obligations.RdsRule : Prop :=
  decodeCommand 0x5000#16 = .ok .rds ∧
  ∀ s : State, s.seqLegal = true → ∃ v : Word, exec .rds s = .next (answered s true v) ∧
    (v.getLsbD 0 = true ↔ s.ph ∈ [Phase.padm, .padz, .padl, .ldw, .exp, .lds, .rnd, .chn, .latch]) ∧
    (v.getLsbD 1 = true ↔ s.dvalid = true) ∧
    (v.getLsbD 2 = true ↔ s.err ≠ .none) ∧
    (v.getLsbD 3 = true ↔ s.ph = .absorb) ∧
    v.toNat / 16 % 16 = codeOf s.err ∧
    v.toNat / 256 = 0 ∧
    (s.Inv →
      (s.ph = .idle → v = 0x00#32) ∧ (s.ph = .absorb → v = 0x08#32) ∧ (s.ph.busy = true → v = 0x01#32) ∧
      (s.ph = .done → v = 0x02#32) ∧ (s.ph = .fault → v ∈ [0x14#32, 0x24#32, 0x34#32, 0x44#32]))

/-! ## The micro-operations -/

/-- R96 with R95's push. -/
def Obligations.PadmRule : Prop :=
  ∀ s : State, s.ph = .padm → s.idx = 0 →
    decodeSeq s.seqWord = .ok .padm ∧
    (∀ hf : s.fill.val < 63,
      exec .padm s = .next { s with
        buf := s.buf.set s.fill.val 0x80#8 (by omega), fill := ⟨s.fill.val + 1, by omega⟩, ph := .padz }) ∧
    (s.fill.val = 63 →
      exec .padm s = .next { s with
        buf := s.buf.set 63 0x80#8, fill := 64, rsm := .padz, ph := .ldw, idx := 0 })

/-- R97 with R95's push: the test is FILL = 56. -/
def Obligations.PadzRule : Prop :=
  ∀ s : State, s.ph = .padz → s.idx = 0 →
    decodeSeq s.seqWord = .ok .padz ∧
    (s.fill.val = 56 → exec .padz s = .next { s with ph := .padl, idx := 0 }) ∧
    (s.fill.val ≠ 56 → ∀ hf : s.fill.val < 63,
      exec .padz s = .next { s with
        buf := s.buf.set s.fill.val 0x00#8 (by omega), fill := ⟨s.fill.val + 1, by omega⟩ }) ∧
    (s.fill.val = 63 →
      exec .padz s = .next { s with
        buf := s.buf.set 63 0x00#8, fill := 64, rsm := .padz, ph := .ldw, idx := 0 })

/-- R98 with R95's push: the byte is BITLEN[63-8k : 56-8k]. -/
def Obligations.PadlRule : Prop :=
  ∀ (s : State) (k : Fin 8), s.ph = .padl → s.idx.val = k.val →
    decodeSeq s.seqWord = .ok (.padl k) ∧
    (∀ hf : s.fill.val < 63,
      exec (.padl k) s = .next { s with
        buf := s.buf.set s.fill.val (BitVec.ofNat 8 (s.bitlen.toNat / 2 ^ (56 - 8 * k.val))) (by omega)
        fill := ⟨s.fill.val + 1, by omega⟩
        idx := ⟨k.val + 1, by omega⟩ }) ∧
    (s.fill.val = 63 →
      exec (.padl k) s = .next { s with
        buf := s.buf.set 63 (BitVec.ofNat 8 (s.bitlen.toNat / 2 ^ (56 - 8 * k.val)))
        fill := 64
        rsm := .latch
        ph := .ldw
        idx := 0 })

/-- R114: the partial-block assertion, and the big-endian word of BUF[4i..4i+3]. -/
def Obligations.LdwRule : Prop :=
  ∀ (s : State) (i : Fin 16), s.ph = .ldw → s.idx.val = i.val →
    decodeSeq s.seqWord = .ok (.ldw i) ∧
    (i.val = 0 ∧ s.fill.val ≠ 64 →
      exec (.ldw i) s = .next { s with
        err := if s.err = .none then .internalInvariant else s.err, ph := .fault, dvalid := false }) ∧
    (¬(i.val = 0 ∧ s.fill.val ≠ 64) → ∃ v : Word,
      v.toNat = s.buf[4 * i.val].toNat * 2 ^ 24 + s.buf[4 * i.val + 1].toNat * 2 ^ 16
        + s.buf[4 * i.val + 2].toNat * 2 ^ 8 + s.buf[4 * i.val + 3].toNat ∧
      (i.val = 15 → exec (.ldw i) s = .next { s with w := s.w.set i.val v, ph := .exp, idx := 16 }) ∧
      (i.val ≠ 15 → exec (.ldw i) s = .next { s with w := s.w.set i.val v, idx := ⟨i.val + 1, by omega⟩ }))

/-- R115. -/
def Obligations.ExpRule : Prop :=
  ∀ (s : State) (i : Fin 80) (hi : 16 ≤ i.val), s.ph = .exp → s.idx = i →
    decodeSeq s.seqWord = .ok (.exp i) ∧
    (i.val = 79 → exec (.exp i) s = .next { s with
      w := s.w.set i.val (rotl 1 (s.w[i.val - 3] ^^^ s.w[i.val - 8] ^^^ s.w[i.val - 14] ^^^ s.w[i.val - 16]))
      ph := .lds
      idx := 0 }) ∧
    (∀ h79 : i.val < 79, exec (.exp i) s = .next { s with
      w := s.w.set i.val (rotl 1 (s.w[i.val - 3] ^^^ s.w[i.val - 8] ^^^ s.w[i.val - 14] ^^^ s.w[i.val - 16]))
      idx := ⟨i.val + 1, by omega⟩ })

/-- R130. -/
def Obligations.LdsRule : Prop :=
  ∀ s : State, s.ph = .lds → s.idx = 0 →
    decodeSeq s.seqWord = .ok .lds ∧
    exec .lds s = .next { s with
      a := s.h[0], b := s.h[1], c := s.h[2], d := s.h[3], e := s.h[4], ph := .rnd, idx := 0 }

/-- R131 with R126, R127 and R128: the function and the constant are selected by the range of the round. -/
def Obligations.RndRule : Prop :=
  ∀ (s : State) (i : Fin 80) (f k : Word), s.ph = .rnd → s.idx = i →
    decodeSeq s.seqWord = .ok (.rnd i) ∧
    (((i.val ≤ 19 ∧ f = (s.b &&& s.c) ||| (~~~s.b &&& s.d) ∧ k = 0x5A827999#32) ∨
     (20 ≤ i.val ∧ i.val ≤ 39 ∧ f = s.b ^^^ s.c ^^^ s.d ∧ k = 0x6ED9EBA1#32) ∨
     (40 ≤ i.val ∧ i.val ≤ 59 ∧ f = (s.b &&& s.c) ||| (s.b &&& s.d) ||| (s.c &&& s.d) ∧ k = 0x8F1BBCDC#32) ∨
     (60 ≤ i.val ∧ f = s.b ^^^ s.c ^^^ s.d ∧ k = 0xCA62C1D6#32)) →
    (i.val = 79 → exec (.rnd i) s = .next { s with
      a := rotl 5 s.a + f + s.e + k + s.w[i.val], b := s.a, c := rotl 30 s.b, d := s.c, e := s.d
      ph := .chn
      idx := 0 }) ∧
    (∀ h79 : i.val < 79, exec (.rnd i) s = .next { s with
      a := rotl 5 s.a + f + s.e + k + s.w[i.val], b := s.a, c := rotl 30 s.b, d := s.c, e := s.d
      idx := ⟨i.val + 1, by omega⟩ }))

/-- R132. -/
def Obligations.ChnRule : Prop :=
  ∀ s : State, s.ph = .chn → s.idx = 0 →
    decodeSeq s.seqWord = .ok .chn ∧
    ∃ p : Phase,
      exec .chn s = .next { s with
        h := #v[s.h[0] + s.a, s.h[1] + s.b, s.h[2] + s.c, s.h[3] + s.d, s.h[4] + s.e]
        fill := 0
        idx := 0
        ph := p } ∧
      (s.rsm = .absorb → p = .absorb) ∧ (s.rsm = .padz → p = .padz) ∧ (s.rsm = .latch → p = .latch)

/-- R148: DIGEST is the five words side by side, the first most significant. -/
def Obligations.LatchRule : Prop :=
  ∀ s : State, s.ph = .latch → s.idx = 0 →
    decodeSeq s.seqWord = .ok .latch ∧
    ∃ g : BitVec 160,
      g.toNat = s.h[0].toNat * 2 ^ 128 + s.h[1].toNat * 2 ^ 96 + s.h[2].toNat * 2 ^ 64
        + s.h[3].toNat * 2 ^ 32 + s.h[4].toNat ∧
      exec .latch s = .next { s with digest := g, dvalid := true, ph := .done }

/-! ## Frames -/

/-- R35: a step touches no register that the table leaves blank: in the row of fault entry where a fault is taken, in
the row of the instruction otherwise. -/
def Obligations.WriteSetsOfTheTable : Prop :=
  ∀ (i : Instr) (s t : State), exec i s = .next t →
    (t.ph = .fault ∧ s.ph ≠ .fault → ∀ r : Reg, r ∉ faultWrites → r.same s t) ∧
    (¬(t.ph = .fault ∧ s.ph ≠ .fault) → ∀ r : Reg, r ∉ writesOf i → r.same s t)

/-- R50: the bytes of BUF are stored by WRB, PADM, PADZ and PADL only, at index FILL, and the words of W by LDW and EXP
only, at index IDX; every other byte and word reads as before, and all bytes do where FILL does not move. -/
def Obligations.IndexedStoresFrame : Prop :=
  ∀ (i : Instr) (s t : State), exec i s = .next t →
    (∀ a : Fin 64, a.val ≠ s.fill.val → t.bufByte a = s.bufByte a) ∧
    (t.fill = s.fill → ∀ a : Fin 64, t.bufByte a = s.bufByte a) ∧
    ((i = .padm ∨ i = .padz ∨ (∃ k, i = .padl k) ∨ (∃ d, i = .wrb d)) ∨
      ∀ a : Fin 64, t.bufByte a = s.bufByte a) ∧
    (∀ k : Fin 80, k ≠ s.idx → t.w[k.val] = s.w[k.val]) ∧
    (((∃ k, i = .ldw k) ∨ ∃ k, i = .exp k) ∨ t.w = s.w)

/-- R25, R193: DIGEST changes at LATCH only, which makes it readable, and at a reset. -/
def Obligations.DigestWrittenByLatchOnly : Prop :=
  ∀ s t : State, step s = .next t →
    t.digest = s.digest ∨
    (s.ph = .latch ∧ t.ph = .done ∧ t.dvalid = true ∧ t.digest = digestBits s.h) ∨
    ∃ r, s.turns = .reset :: r

/-- R27: BITLEN is written by INIT, by an accepted WRB, which adds 8 without wrapping, and by a reset: no padding step
writes it. -/
def Obligations.BitlenCountsTheMessage : Prop :=
  ∀ s t : State, s.Inv → step s = .next t →
    t.bitlen = s.bitlen ∨
    (s.ph = .absorb ∧ t.bitlen.toNat = s.bitlen.toNat + 8 ∧ ∃ (d : Byte) (u : State), Delivers s (0x10#8 ++ d) u) ∨
    (s.ph.busy = false ∧ t.ph = .absorb ∧ t.bitlen = 0#64 ∧ ∃ u, Delivers s 0x0000#16 u) ∨
    ∃ r, s.turns = .reset :: r

/-- R172, R173: in FAULT nothing changes but by INIT and by a reset. -/
def Obligations.FaultIsSticky : Prop :=
  ∀ s t : State, s.ph = .fault → s.idx = 0 → step s = .next t →
    (∀ r : Reg, r.same s t) ∨
    (t.ph = .absorb ∧ t.err = .none ∧ t.bitlen = 0#64 ∧ t.fill = 0 ∧ ∃ u, Delivers s 0x0000#16 u) ∨
    (t.ph = .idle ∧ ∃ r, s.turns = .reset :: r)

/-! ## Reset -/

/-- R190, R38: the reset event, from every state. -/
def Obligations.ResetEventFromAnyState : Prop :=
  ∀ (s : State) (r : List Turn), s.turns = .reset :: r →
    ∃ t, step s = .next t ∧ t.ph = .idle ∧ t.idx = 0 ∧ t.rsm = .absorb ∧ t.dvalid = false ∧ t.err = .none ∧
      t.port = none ∧ t.responses = s.responses ∧ t.turns = r

/-- R38: the control fields of State.reset. -/
def Obligations.ResetStateControl : Prop :=
  State.reset.ph = .idle ∧ State.reset.idx = 0 ∧ State.reset.rsm = .absorb ∧ State.reset.dvalid = false ∧
  State.reset.err = .none ∧ State.reset.port = none

/-! ## Invariants and whole-machine rules -/

/-- R40: every step, and not only from reset, keeps the invariant. -/
def Obligations.EveryStepKeepsInvariant : Prop :=
  ∀ s t : State, s.Inv → step s = .next t → t.Inv

/-- R40: the invariant holds after reset. -/
def Obligations.InvariantAtReset : Prop := State.reset.Inv

/-- R40 (d): the partial-block assertion never fires. -/
def Obligations.PartialBlockNeverFires : Prop :=
  ∀ s t : State, s.Inv → step s = .next t → t.err = .internalInvariant → s.err = .internalInvariant

/-- R40: from a state that meets the invariant every step has an outcome, which is a next state. -/
def Obligations.EveryStepHasNext : Prop :=
  ∀ s : State, s.Inv → ∃ t, step s = .next t

/-- R39: the phase moves along the graph, or to IDLE by a reset. -/
def Obligations.PhaseFollowsTheGraph : Prop :=
  ∀ s t : State, s.Inv → step s = .next t →
    t.ph ∈ s.ph.next ∨ (t.ph = .idle ∧ ∃ r, s.turns = .reset :: r)

/-- R40 (k), R59, R161: what a later response can depend on does not include a register that is not live: no response,
now or later, tells apart two states that agree on the live registers, and the values a reset leaves are among what is
not compared. -/
def Obligations.DeadRegistersUnobservable : Prop :=
  ∀ s s' t : State, s.alike s' → step s = .next t → ∃ t', step s' = .next t' ∧ t.alike t'

/-- R202: the sequencer does not depend on the data, nor on the bytes of the message. -/
def Obligations.ControlIgnoresData : Prop :=
  ∀ s s' t : State, s.sameControl s' → step s = .next t → ∃ t', step s' = .next t' ∧ t.sameControl t'

/-- R194: every busy span ends after at most 398 micro-operations. -/
def Obligations.BusySpanEnds : Prop :=
  ∀ s : State, s.Inv → s.ph.busy = true → s.quietOutside = true →
    ∃ n t, n ≤ 398 ∧ runFor n s = .next t ∧ (t.ph = .absorb ∨ t.ph = .done) ∧ t.Inv

/-- R200 (b): the number of micro-operations from FIN to DONE. -/
def Obligations.StepsAfterFin : Prop :=
  ∀ (s : State) (len : Nat), s.ph = .padm → s.idx = 0 → s.fill.val = len % 64 → s.quietOutside = true →
    ∃ t, runFor (Reference.stepsAfterFin len) s = .next t ∧ t.ph = .done ∧ t.dvalid = true ∧ t.ended = true

/-! ## The reference layer and its binding -/

/-- R10: rotation, as a number and bit by bit. -/
def Obligations.RotationLaw : Prop :=
  ∀ (n : Nat) (x : Word), 0 < n → n < 32 →
    (rotl n x).toNat = x.toNat * 2 ^ n % 2 ^ 32 + x.toNat / 2 ^ (32 - n) ∧
    ∀ j : Nat, j < 32 → (rotl n x).getLsbD ((j + n) % 32) = x.getLsbD j

/-- R12: big-endian assembly and disassembly, as numbers. -/
def Obligations.BigEndianLaw : Prop :=
  (∀ b0 b1 b2 b3 : Byte,
    (be32 b0 b1 b2 b3).toNat = b0.toNat * 2 ^ 24 + b1.toNat * 2 ^ 16 + b2.toNat * 2 ^ 8 + b3.toNat) ∧
  (∀ v : BitVec 64, (be64bytes v).length = 8 ∧
    ∀ k : Fin 8, (be64bytes v).getD k.val 0#8 = BitVec.ofNat 8 (v.toNat / 2 ^ (56 - 8 * k.val))) ∧
  (∀ v : Word, (be32bytes v).length = 4 ∧
    ∀ k : Fin 4, (be32bytes v).getD k.val 0#8 = BitVec.ofNat 8 (v.toNat / 2 ^ (24 - 8 * k.val)))

/-- R147: the three renderings of a digest are one value. -/
def Obligations.RenderingsAgree : Prop :=
  ∀ g : Reference.Five,
    (∀ i : Fin 5, digestWord g.bits i = g.words[i.val]) ∧
    g.bytes.length = 20 ∧
    (∀ j : Fin 20, g.bytes.getD j.val 0#8 = digestByte g.bits j) ∧
    (∀ j : Fin 20, digestByte g.bits j = wordByte g.words[j.val / 4] ⟨j.val % 4, by omega⟩)

/-- R91: the properties of the padding, (a) to (f), for every message of the domain. The length in (b), the number of
blocks in (d), and (f) are what the spec marks as derived: the source document does not state them. -/
def Obligations.PaddingProperties : Prop :=
  (∀ m : List Byte, m.length < 2 ^ 61 →
    ((Reference.pad m).length % 64 = 0 ∧ 64 ≤ (Reference.pad m).length) ∧
    (m.length < (Reference.pad m).length ∧
      (Reference.pad m).length = m.length + 9 + Reference.zeroCount m.length ∧ Reference.zeroCount m.length < 64) ∧
    (((Reference.pad m).drop ((Reference.pad m).length - 8)).foldl (fun n b => n * 256 + b.toNat) 0 = m.length * 8) ∧
    ((Reference.pad m).length / 64 = (m.length + 8) / 64 + 1) ∧
    ((Reference.pad m).take m.length = m ∧ (Reference.pad m).getD m.length 0#8 = 0x80#8 ∧
      ∀ k, m.length < k → k ≤ m.length + Reference.zeroCount m.length → (Reference.pad m).getD k 1#8 = 0x00#8)) ∧
  (∀ m m' : List Byte, m.length < 2 ^ 61 → m'.length < 2 ^ 61 → Reference.pad m = Reference.pad m' → m = m')

/-- R110, R113: the blocks are the consecutive 64-byte windows, in order, one schedule of eighty words each. -/
def Obligations.BlocksPartitionThePadding : Prop :=
  ∀ p : List Byte, p.length % 64 = 0 →
    (Reference.blocks p).length = p.length / 64 ∧ (Reference.blocks p).flatten = p ∧
    (∀ n, n < p.length / 64 →
      (Reference.blocks p).getD n [] = (p.drop (64 * n)).take 64 ∧ ((Reference.blocks p).getD n []).length = 64) ∧
    (Reference.schedule p).length = p.length / 64 ∧
    (∀ n, n < p.length / 64 →
      (Reference.schedule p).getD n [] = Reference.expand (Reference.words ((p.drop (64 * n)).take 64)) ∧
      ((Reference.schedule p).getD n []).length = 80)

/-- R112: the recurrence that defines the schedule; and its linearity and the schedule of zeros, which the spec marks as
derived. -/
def Obligations.ScheduleRecurrence : Prop :=
  (∀ v : List Word, v.length = 16 →
    (Reference.expand v).length = 80 ∧
    (∀ i, i < 16 → (Reference.expand v).getD i 0#32 = v.getD i 0#32) ∧
    (∀ i, 16 ≤ i → i < 80 → (Reference.expand v).getD i 0#32 =
      rotl 1 ((Reference.expand v).getD (i - 3) 0#32 ^^^ (Reference.expand v).getD (i - 8) 0#32
        ^^^ (Reference.expand v).getD (i - 14) 0#32 ^^^ (Reference.expand v).getD (i - 16) 0#32))) ∧
  (∀ u v : List Word, u.length = 16 → v.length = 16 →
    Reference.expand (List.zipWith (· ^^^ ·) u v) =
      List.zipWith (· ^^^ ·) (Reference.expand u) (Reference.expand v)) ∧
  Reference.expand (List.replicate 16 0#32) = List.replicate 80 0#32

/-- R116, which the spec marks as derived: LDW and EXP compute the schedule of the block in BUF. The quiet outside is the
model's (log entry 7). -/
def Obligations.EightyStepsExpandTheBlock : Prop :=
  ∀ s : State, s.ph = .ldw → s.idx = 0 → s.fill.val = 64 → s.quietOutside = true →
    ∃ w' : Vector Word 80, w'.toList = Reference.expand (Reference.words s.buf.toList) ∧
      runFor 80 s = .next { s with w := w', ph := .lds, idx := 0 }

/-- R133, which the spec marks as derived: LDS, the rounds and CHN compute the compression; with R116, the whole
processing of a block. The quiet outside is the model's (log entry 7). -/
def Obligations.BlockIsCompressed : Prop :=
  (∀ s : State, s.ph = .lds → s.idx = 0 → s.quietOutside = true →
    ∃ v : Reference.Five, v = Reference.roundsFrom 0 s.w.toList s.five ∧
      runFor 82 s = .next { s with
        h := (Reference.compress s.w.toList s.five).words
        a := v.a, b := v.b, c := v.c, d := v.d, e := v.e
        fill := 0
        idx := 0
        ph := s.rsm.phase }) ∧
  (∀ s : State, s.ph = .ldw → s.idx = 0 → s.fill.val = 64 → s.quietOutside = true →
    ∃ t, runFor 162 s = .next t ∧ t.ph = s.rsm.phase ∧ t.idx = 0 ∧ t.fill = 0 ∧ t.bitlen = s.bitlen ∧
      t.five = Reference.compress (Reference.expand (Reference.words s.buf.toList)) s.five)

/-- R160, R161, R200 (c): INIT, the bytes of a message and FIN, presented in this order in any state that is not busy, with
RDS presented and the core given its turn anywhere between them, lead to DONE with the digest of the message in DIGEST;
every word presented is answered once, in order, with ok = 1, and with data 0 where it is not RDS; RDW and RDB return the
digest's words and bytes. The steps are the words presented, the micro-operations of R200 (c), and those turns left to the
core in which it had nothing to do. -/
def Obligations.DigestOfEveryMessage : Prop :=
  ∀ (m : List Byte) (s : State), m.length < 2 ^ 61 → s.seqLegal = true → s.ph.busy = false → s.port = none →
    s.turns.filter ofMessage = messageTurns m →
    ∃ n t rs, runFor n s = .next t ∧ t.ph = .done ∧ t.idx = 0 ∧ t.dvalid = true ∧ t.err = .none ∧ t.turns = [] ∧
      t.port = none ∧ t.responses = s.responses ++ rs ∧
      List.Forall₂ (fun (w : CmdWord) (r : Response) => r.ok = true ∧ (w ≠ 0x5000#16 → r.data = 0#32))
        (presented s.turns) rs ∧
      (presented s.turns).length + Reference.stepsInAll m.length ≤ n ∧
      n ≤ (presented s.turns).length + Reference.stepsInAll m.length + s.turns.count .core ∧
      t.digest = (Reference.digest m).bits ∧
      (∀ i : Fin 5, exec (.rdw i) t = .next (answered t true (Reference.digest m).words[i.val])) ∧
      (∀ j : Fin 20, exec (.rdb j) t =
        .next (answered t true (((Reference.digest m).bytes.getD j.val 0#8).setWidth 32)))

/-- R82: the words the pseudo-instructions expand to, and what text is refused; the words of a WAIT are one RDS for each
answer with BUSY set and one more. -/
def Obligations.PseudoInstructionsExpand : Prop :=
  (∀ text : List Char, text.all textChar = false → (Asm.wrs text).expand = none ∧ (Asm.msg text).expand = none) ∧
  (∀ (busy : List Word) (v : Word), (∀ x ∈ busy, x.getLsbD 0 = true) → v.getLsbD 0 = false →
    Asm.wait.expand.map (fun l => l.flatMap (HostOp.words (busy ++ [v]))) =
      some (List.replicate (busy.length + 1) 0x5000#16)) ∧
  (∀ s : State, waitEnds s.status = true ↔ s.ph.busy = false) ∧
  (∀ text : List Char, text.all textChar = true →
    (Asm.wrs text).expand = some (text.map fun c => .send (BitVec.ofNat 16 (0x1000 + c.toNat))) ∧
    (Asm.msg text).expand = some
      (.send 0x0000#16 :: (text.map fun c => .send (BitVec.ofNat 16 (0x1000 + c.toNat))) ++ [.send 0x2000#16])) ∧
  Asm.rdd.expand = some ((List.range 5).map fun i => .send (BitVec.ofNat 16 (0x3000 + i))) ∧
  Asm.rddb.expand = some ((List.range 20).map fun j => .send (BitVec.ofNat 16 (0x4000 + j)))

/-- R82, WAIT, on the core: a poll is answered at once with the STATUS view and changes no register; the wait goes on
while BUSY is set and is over when it is clear; a step of the core leaves it as it is; and under every schedule that
lets the core step often enough it is over, after polls that saw the core busy and one that did not. Grants are the
model's form of SCHEDULE (log entry 12). -/
def Obligations.WaitPollsUntilNotBusy : Prop :=
  (∀ (s : State) (rest : List HostOp), s.seqLegal = true → s.port = none →
    Driven.step .host ⟨.waitIdle :: rest, s⟩ =
      .next ⟨if s.ph.busy then .waitIdle :: rest else rest, answered { s with turns := [] } true s.status⟩) ∧
  (∀ (s : State) (rest : List HostOp) (d : Driven), Driven.step .core ⟨.waitIdle :: rest, s⟩ = .next d →
    d.prog = .waitIdle :: rest) ∧
  (∀ (s : State) (gs : List Grant), s.Inv → s.port = none → 398 ≤ gs.count .core →
    ∃ d k v, Driven.run (gs ++ [.host]) ⟨[.waitIdle], s⟩ = .next d ∧ d.prog = [] ∧ d.core.ph.busy = false ∧
      d.core.responses = s.responses ++ List.replicate k ⟨true, 0x00000001#32⟩ ++ [⟨true, v⟩] ∧
      v.getLsbD 0 = false)

/-- R82, R160: the program `MSG "text"` followed by `RDD`, run by a host on a core in any phase that is not busy, is
answered with (1, 0) for INIT, each character and FIN, and then with the five words of the digest of the text. Grants are
the model's form of SCHEDULE (log entry 12). -/
def Obligations.ProgramOfADigest : Prop :=
  ∀ (text : List Char) (s : State), text.all textChar = true → text.length < 2 ^ 61 →
    s.seqLegal = true → s.ph.busy = false → s.port = none →
    ∃ load read n d, (Asm.msg text).expand = some load ∧ Asm.rdd.expand = some read ∧
      Driven.run (List.replicate n .host) ⟨load ++ read, s⟩ = .next d ∧ d.prog = [] ∧ d.core.port = none ∧
      d.core.responses = s.responses ++ List.replicate (text.length + 2) ⟨true, 0#32⟩ ++
        (Reference.digest (text.map fun c => BitVec.ofNat 8 c.toNat)).words.toList.map (fun v => ⟨true, v⟩)
end

