-- ==== Sys2Proof/Laws/Driver.lean ====
section
/-! SUPPORT. What a host that drives the core presents, and what is left of its program after a step (spec R82, R192
(a)). Proofs cite these and do not unfold the driver. -/

namespace Sys2Proof.Machine

@[simp] theorem HostOp.word_send (w : CmdWord) : (HostOp.send w).word = w := rfl
@[simp] theorem HostOp.word_waitIdle : HostOp.waitIdle.word = 0x5000#16 := rfl

/-- R82, WAIT: after an answer with BUSY set there is another poll. -/
theorem pollWords_busy {v : BitVec 32} (seen : List (BitVec 32)) (h : v.getLsbD 0 = true) :
    pollWords (v :: seen) = 0x5000#16 :: pollWords seen := by
  simp only [pollWords, waitEnds, h, Bool.not_true, Bool.false_eq_true, if_false]

/-- R82, WAIT: an answer with BUSY clear is the last. -/
theorem pollWords_idle {v : BitVec 32} (seen : List (BitVec 32)) (h : v.getLsbD 0 = false) :
    pollWords (v :: seen) = [0x5000#16] := by
  simp only [pollWords, waitEnds, h, Bool.not_false, if_true]

/-- R192 (a): while a word is outstanding the host presents nothing. -/
theorem hostTurns_outstanding {d : Driven} {w : CmdWord} (h : d.core.port = some w) : d.hostTurns = [] := by
  simp [Driven.hostTurns, h]

/-- The host presents the next word of its program at a free port. -/
theorem hostTurns_free {d : Driven} {op : HostOp} {rest : List HostOp} (h : d.core.port = none)
    (hp : d.prog = op :: rest) : d.hostTurns = [.command op.word] := by
  simp [Driven.hostTurns, h, hp]

/-- At the end of its program the host presents nothing. -/
theorem hostTurns_end {d : Driven} (hp : d.prog = []) : d.hostTurns = [] := by
  cases h : d.core.port <;> simp [Driven.hostTurns, h, hp]

theorem progAfter_outstanding {d : Driven} {w : CmdWord} (t : State) (h : d.core.port = some w) :
    d.progAfter t = d.prog := by
  simp [Driven.progAfter, h]

theorem progAfter_end {d : Driven} (t : State) (hp : d.prog = []) : d.progAfter t = [] := by
  cases h : d.core.port <;> simp [Driven.progAfter, h, hp]

/-- A word presented is done with, its response being awaited at the port. -/
theorem progAfter_send {d : Driven} {w : CmdWord} {rest : List HostOp} (t : State) (h : d.core.port = none)
    (hp : d.prog = .send w :: rest) : d.progAfter t = rest := by
  simp [Driven.progAfter, h, hp]

/-- R82: a WAIT goes on or is over as the last response says. -/
theorem progAfter_wait {d : Driven} {rest : List HostOp} {t : State} {rs : List Response} {r : Response}
    (h : d.core.port = none) (hp : d.prog = .waitIdle :: rest) (hr : t.responses = rs ++ [r]) :
    d.progAfter t = if waitEnds r.data then rest else .waitIdle :: rest := by
  simp [Driven.progAfter, h, hp, hr]

/-- Everything a step of a driven core that answers can be: a step of the core with the turn of the agent granted. -/
theorem driven_step_next {g : Grant} {d e : Driven} (h : d.step g = .next e) :
    (g = .core ∧ step { d.core with turns := [.core] } = .next e.core ∧ e.prog = d.prog) ∨
    (g = .host ∧ step { d.core with turns := d.hostTurns } = .next e.core ∧ e.prog = d.progAfter e.core) := by
  cases g <;> simp only [Driven.step] at h <;> split at h <;> cases h <;> rename_i ht
  · exact .inr ⟨rfl, ht, rfl⟩
  · exact .inl ⟨rfl, ht, rfl⟩

/-- A grant to the core. -/
theorem driven_step_core {d : Driven} {t : State} (h : step { d.core with turns := [.core] } = .next t) :
    d.step .core = .next ⟨d.prog, t⟩ := by
  simp [Driven.step, h]

/-- A grant to the host. -/
theorem driven_step_host {d : Driven} {t : State} (h : step { d.core with turns := d.hostTurns } = .next t) :
    d.step .host = .next ⟨d.progAfter t, t⟩ := by
  simp [Driven.step, h]

theorem driven_run_cons {g : Grant} {gs : List Grant} {d e : Driven} (h : d.step g = .next e) :
    Driven.run (g :: gs) d = Driven.run gs e := by
  simp [Driven.run, h]

/-- A run of a schedule and then of another. -/
theorem driven_run_append {gs hs : List Grant} {d e : Driven} (h : Driven.run gs d = .next e) :
    Driven.run (gs ++ hs) d = Driven.run hs e := by
  induction gs generalizing d with
  | nil => cases h; rfl
  | cons g gs ih =>
    simp only [Driven.run, List.cons_append] at h ⊢
    split at h
    · exact ih h
    · cases h
    · cases h

end Sys2Proof.Machine
end

