-- ==== Sys2Proof/Laws/State.lean ====
section
/-! SUPPORT. One lemma per field per named update of the state, so that no proof unfolds a record update. -/

namespace Sys2Proof.Machine

/-! ## goto (R30) -/

@[simp] theorem State.goto_h (s : State) (p : Phase) (k : Fin 80) : (s.goto p k).h = s.h := rfl

@[simp] theorem State.goto_a (s : State) (p : Phase) (k : Fin 80) : (s.goto p k).a = s.a := rfl

@[simp] theorem State.goto_b (s : State) (p : Phase) (k : Fin 80) : (s.goto p k).b = s.b := rfl

@[simp] theorem State.goto_c (s : State) (p : Phase) (k : Fin 80) : (s.goto p k).c = s.c := rfl

@[simp] theorem State.goto_d (s : State) (p : Phase) (k : Fin 80) : (s.goto p k).d = s.d := rfl

@[simp] theorem State.goto_e (s : State) (p : Phase) (k : Fin 80) : (s.goto p k).e = s.e := rfl

@[simp] theorem State.goto_w (s : State) (p : Phase) (k : Fin 80) : (s.goto p k).w = s.w := rfl

@[simp] theorem State.goto_buf (s : State) (p : Phase) (k : Fin 80) : (s.goto p k).buf = s.buf := rfl

@[simp] theorem State.goto_digest (s : State) (p : Phase) (k : Fin 80) : (s.goto p k).digest = s.digest := rfl

@[simp] theorem State.goto_bitlen (s : State) (p : Phase) (k : Fin 80) : (s.goto p k).bitlen = s.bitlen := rfl

@[simp] theorem State.goto_fill (s : State) (p : Phase) (k : Fin 80) : (s.goto p k).fill = s.fill := rfl

@[simp] theorem State.goto_ph (s : State) (p : Phase) (k : Fin 80) : (s.goto p k).ph = p := rfl

@[simp] theorem State.goto_idx (s : State) (p : Phase) (k : Fin 80) : (s.goto p k).idx = k := rfl

@[simp] theorem State.goto_rsm (s : State) (p : Phase) (k : Fin 80) : (s.goto p k).rsm = s.rsm := rfl

@[simp] theorem State.goto_dvalid (s : State) (p : Phase) (k : Fin 80) : (s.goto p k).dvalid = s.dvalid := rfl

@[simp] theorem State.goto_err (s : State) (p : Phase) (k : Fin 80) : (s.goto p k).err = s.err := rfl

@[simp] theorem State.goto_port (s : State) (p : Phase) (k : Fin 80) : (s.goto p k).port = s.port := rfl

@[simp] theorem State.goto_turns (s : State) (p : Phase) (k : Fin 80) : (s.goto p k).turns = s.turns := rfl

@[simp] theorem State.goto_responses (s : State) (p : Phase) (k : Fin 80) : (s.goto p k).responses = s.responses := rfl

@[simp] theorem State.goto_fresh (s : State) (p : Phase) (k : Fin 80) : (s.goto p k).fresh = s.fresh := rfl

/-! ## respond (R74) -/

@[simp] theorem State.respond_h (s : State) (ok : Bool) (data : Word) : (s.respond ok data).h = s.h := rfl

@[simp] theorem State.respond_a (s : State) (ok : Bool) (data : Word) : (s.respond ok data).a = s.a := rfl

@[simp] theorem State.respond_b (s : State) (ok : Bool) (data : Word) : (s.respond ok data).b = s.b := rfl

@[simp] theorem State.respond_c (s : State) (ok : Bool) (data : Word) : (s.respond ok data).c = s.c := rfl

@[simp] theorem State.respond_d (s : State) (ok : Bool) (data : Word) : (s.respond ok data).d = s.d := rfl

@[simp] theorem State.respond_e (s : State) (ok : Bool) (data : Word) : (s.respond ok data).e = s.e := rfl

@[simp] theorem State.respond_w (s : State) (ok : Bool) (data : Word) : (s.respond ok data).w = s.w := rfl

@[simp] theorem State.respond_buf (s : State) (ok : Bool) (data : Word) : (s.respond ok data).buf = s.buf := rfl

@[simp] theorem State.respond_digest (s : State) (ok : Bool) (data : Word) : (s.respond ok data).digest = s.digest := rfl

@[simp] theorem State.respond_bitlen (s : State) (ok : Bool) (data : Word) : (s.respond ok data).bitlen = s.bitlen := rfl

@[simp] theorem State.respond_fill (s : State) (ok : Bool) (data : Word) : (s.respond ok data).fill = s.fill := rfl

@[simp] theorem State.respond_ph (s : State) (ok : Bool) (data : Word) : (s.respond ok data).ph = s.ph := rfl

@[simp] theorem State.respond_idx (s : State) (ok : Bool) (data : Word) : (s.respond ok data).idx = s.idx := rfl

@[simp] theorem State.respond_rsm (s : State) (ok : Bool) (data : Word) : (s.respond ok data).rsm = s.rsm := rfl

@[simp] theorem State.respond_dvalid (s : State) (ok : Bool) (data : Word) : (s.respond ok data).dvalid = s.dvalid := rfl

@[simp] theorem State.respond_err (s : State) (ok : Bool) (data : Word) : (s.respond ok data).err = s.err := rfl

@[simp] theorem State.respond_port (s : State) (ok : Bool) (data : Word) : (s.respond ok data).port = none := rfl

@[simp] theorem State.respond_turns (s : State) (ok : Bool) (data : Word) : (s.respond ok data).turns = s.turns := rfl

@[simp] theorem State.respond_responses (s : State) (ok : Bool) (data : Word) : (s.respond ok data).responses = s.responses ++ [⟨ok, data⟩] := rfl

@[simp] theorem State.respond_fresh (s : State) (ok : Bool) (data : Word) : (s.respond ok data).fresh = s.fresh := rfl

/-! ## raise (R171) -/

@[simp] theorem State.raise_h (s : State) (x : ErrCode) : (s.raise x).h = s.h := rfl

@[simp] theorem State.raise_a (s : State) (x : ErrCode) : (s.raise x).a = s.a := rfl

@[simp] theorem State.raise_b (s : State) (x : ErrCode) : (s.raise x).b = s.b := rfl

@[simp] theorem State.raise_c (s : State) (x : ErrCode) : (s.raise x).c = s.c := rfl

@[simp] theorem State.raise_d (s : State) (x : ErrCode) : (s.raise x).d = s.d := rfl

@[simp] theorem State.raise_e (s : State) (x : ErrCode) : (s.raise x).e = s.e := rfl

@[simp] theorem State.raise_w (s : State) (x : ErrCode) : (s.raise x).w = s.w := rfl

@[simp] theorem State.raise_buf (s : State) (x : ErrCode) : (s.raise x).buf = s.buf := rfl

@[simp] theorem State.raise_digest (s : State) (x : ErrCode) : (s.raise x).digest = s.digest := rfl

@[simp] theorem State.raise_bitlen (s : State) (x : ErrCode) : (s.raise x).bitlen = s.bitlen := rfl

@[simp] theorem State.raise_fill (s : State) (x : ErrCode) : (s.raise x).fill = s.fill := rfl

@[simp] theorem State.raise_ph (s : State) (x : ErrCode) : (s.raise x).ph = .fault := rfl

@[simp] theorem State.raise_idx (s : State) (x : ErrCode) : (s.raise x).idx = s.idx := rfl

@[simp] theorem State.raise_rsm (s : State) (x : ErrCode) : (s.raise x).rsm = s.rsm := rfl

@[simp] theorem State.raise_dvalid (s : State) (x : ErrCode) : (s.raise x).dvalid = false := rfl

@[simp] theorem State.raise_err (s : State) (x : ErrCode) : (s.raise x).err = if s.err = .none then x else s.err := rfl

@[simp] theorem State.raise_port (s : State) (x : ErrCode) : (s.raise x).port = s.port := rfl

@[simp] theorem State.raise_turns (s : State) (x : ErrCode) : (s.raise x).turns = s.turns := rfl

@[simp] theorem State.raise_responses (s : State) (x : ErrCode) : (s.raise x).responses = s.responses := rfl

@[simp] theorem State.raise_fresh (s : State) (x : ErrCode) : (s.raise x).fresh = s.fresh := rfl

/-! ## raiseCommand (R171) -/

@[simp] theorem State.raiseCommand_h (s : State) (x : ErrCode) : (s.raiseCommand x).h = s.h := rfl

@[simp] theorem State.raiseCommand_a (s : State) (x : ErrCode) : (s.raiseCommand x).a = s.a := rfl

@[simp] theorem State.raiseCommand_b (s : State) (x : ErrCode) : (s.raiseCommand x).b = s.b := rfl

@[simp] theorem State.raiseCommand_c (s : State) (x : ErrCode) : (s.raiseCommand x).c = s.c := rfl

@[simp] theorem State.raiseCommand_d (s : State) (x : ErrCode) : (s.raiseCommand x).d = s.d := rfl

@[simp] theorem State.raiseCommand_e (s : State) (x : ErrCode) : (s.raiseCommand x).e = s.e := rfl

@[simp] theorem State.raiseCommand_w (s : State) (x : ErrCode) : (s.raiseCommand x).w = s.w := rfl

@[simp] theorem State.raiseCommand_buf (s : State) (x : ErrCode) : (s.raiseCommand x).buf = s.buf := rfl

@[simp] theorem State.raiseCommand_digest (s : State) (x : ErrCode) : (s.raiseCommand x).digest = s.digest := rfl

@[simp] theorem State.raiseCommand_bitlen (s : State) (x : ErrCode) : (s.raiseCommand x).bitlen = s.bitlen := rfl

@[simp] theorem State.raiseCommand_fill (s : State) (x : ErrCode) : (s.raiseCommand x).fill = s.fill := rfl

@[simp] theorem State.raiseCommand_ph (s : State) (x : ErrCode) : (s.raiseCommand x).ph = .fault := rfl

@[simp] theorem State.raiseCommand_idx (s : State) (x : ErrCode) : (s.raiseCommand x).idx = s.idx := rfl

@[simp] theorem State.raiseCommand_rsm (s : State) (x : ErrCode) : (s.raiseCommand x).rsm = s.rsm := rfl

@[simp] theorem State.raiseCommand_dvalid (s : State) (x : ErrCode) : (s.raiseCommand x).dvalid = false := rfl

@[simp] theorem State.raiseCommand_err (s : State) (x : ErrCode) : (s.raiseCommand x).err = if s.err = .none then x else s.err := rfl

@[simp] theorem State.raiseCommand_port (s : State) (x : ErrCode) : (s.raiseCommand x).port = none := rfl

@[simp] theorem State.raiseCommand_turns (s : State) (x : ErrCode) : (s.raiseCommand x).turns = s.turns := rfl

@[simp] theorem State.raiseCommand_responses (s : State) (x : ErrCode) : (s.raiseCommand x).responses = s.responses ++ [⟨false, x.code.setWidth 32⟩] := rfl

@[simp] theorem State.raiseCommand_fresh (s : State) (x : ErrCode) : (s.raiseCommand x).fresh = s.fresh := rfl

/-! ## refuseInFault (R172) -/

@[simp] theorem State.refuseInFault_h (s : State) : (s.refuseInFault).h = s.h := rfl

@[simp] theorem State.refuseInFault_a (s : State) : (s.refuseInFault).a = s.a := rfl

@[simp] theorem State.refuseInFault_b (s : State) : (s.refuseInFault).b = s.b := rfl

@[simp] theorem State.refuseInFault_c (s : State) : (s.refuseInFault).c = s.c := rfl

@[simp] theorem State.refuseInFault_d (s : State) : (s.refuseInFault).d = s.d := rfl

@[simp] theorem State.refuseInFault_e (s : State) : (s.refuseInFault).e = s.e := rfl

@[simp] theorem State.refuseInFault_w (s : State) : (s.refuseInFault).w = s.w := rfl

@[simp] theorem State.refuseInFault_buf (s : State) : (s.refuseInFault).buf = s.buf := rfl

@[simp] theorem State.refuseInFault_digest (s : State) : (s.refuseInFault).digest = s.digest := rfl

@[simp] theorem State.refuseInFault_bitlen (s : State) : (s.refuseInFault).bitlen = s.bitlen := rfl

@[simp] theorem State.refuseInFault_fill (s : State) : (s.refuseInFault).fill = s.fill := rfl

@[simp] theorem State.refuseInFault_ph (s : State) : (s.refuseInFault).ph = s.ph := rfl

@[simp] theorem State.refuseInFault_idx (s : State) : (s.refuseInFault).idx = s.idx := rfl

@[simp] theorem State.refuseInFault_rsm (s : State) : (s.refuseInFault).rsm = s.rsm := rfl

@[simp] theorem State.refuseInFault_dvalid (s : State) : (s.refuseInFault).dvalid = s.dvalid := rfl

@[simp] theorem State.refuseInFault_err (s : State) : (s.refuseInFault).err = s.err := rfl

@[simp] theorem State.refuseInFault_port (s : State) : (s.refuseInFault).port = none := rfl

@[simp] theorem State.refuseInFault_turns (s : State) : (s.refuseInFault).turns = s.turns := rfl

@[simp] theorem State.refuseInFault_responses (s : State) : (s.refuseInFault).responses = s.responses ++ [⟨false, s.err.code.setWidth 32⟩] := rfl

@[simp] theorem State.refuseInFault_fresh (s : State) : (s.refuseInFault).fresh = s.fresh := rfl

/-! ## openComputation (R92) -/

@[simp] theorem State.openComputation_h (s : State) : (s.openComputation).h = iv := rfl

@[simp] theorem State.openComputation_a (s : State) : (s.openComputation).a = s.a := rfl

@[simp] theorem State.openComputation_b (s : State) : (s.openComputation).b = s.b := rfl

@[simp] theorem State.openComputation_c (s : State) : (s.openComputation).c = s.c := rfl

@[simp] theorem State.openComputation_d (s : State) : (s.openComputation).d = s.d := rfl

@[simp] theorem State.openComputation_e (s : State) : (s.openComputation).e = s.e := rfl

@[simp] theorem State.openComputation_w (s : State) : (s.openComputation).w = s.w := rfl

@[simp] theorem State.openComputation_buf (s : State) : (s.openComputation).buf = s.buf := rfl

@[simp] theorem State.openComputation_digest (s : State) : (s.openComputation).digest = s.digest := rfl

@[simp] theorem State.openComputation_bitlen (s : State) : (s.openComputation).bitlen = 0#64 := rfl

@[simp] theorem State.openComputation_fill (s : State) : (s.openComputation).fill = 0 := rfl

@[simp] theorem State.openComputation_ph (s : State) : (s.openComputation).ph = .absorb := rfl

@[simp] theorem State.openComputation_idx (s : State) : (s.openComputation).idx = 0 := rfl

@[simp] theorem State.openComputation_rsm (s : State) : (s.openComputation).rsm = .absorb := rfl

@[simp] theorem State.openComputation_dvalid (s : State) : (s.openComputation).dvalid = false := rfl

@[simp] theorem State.openComputation_err (s : State) : (s.openComputation).err = .none := rfl

@[simp] theorem State.openComputation_port (s : State) : (s.openComputation).port = s.port := rfl

@[simp] theorem State.openComputation_turns (s : State) : (s.openComputation).turns = s.turns := rfl

@[simp] theorem State.openComputation_responses (s : State) : (s.openComputation).responses = s.responses := rfl

@[simp] theorem State.openComputation_fresh (s : State) : (s.openComputation).fresh = s.fresh := rfl

/-! ## setW (R114, R115) -/

@[simp] theorem State.setW_h (s : State) (i : Fin 80) (v : Word) : (s.setW i v).h = s.h := rfl

@[simp] theorem State.setW_a (s : State) (i : Fin 80) (v : Word) : (s.setW i v).a = s.a := rfl

@[simp] theorem State.setW_b (s : State) (i : Fin 80) (v : Word) : (s.setW i v).b = s.b := rfl

@[simp] theorem State.setW_c (s : State) (i : Fin 80) (v : Word) : (s.setW i v).c = s.c := rfl

@[simp] theorem State.setW_d (s : State) (i : Fin 80) (v : Word) : (s.setW i v).d = s.d := rfl

@[simp] theorem State.setW_e (s : State) (i : Fin 80) (v : Word) : (s.setW i v).e = s.e := rfl

@[simp] theorem State.setW_w (s : State) (i : Fin 80) (v : Word) : (s.setW i v).w = s.w.set i.val v i.isLt := rfl

@[simp] theorem State.setW_buf (s : State) (i : Fin 80) (v : Word) : (s.setW i v).buf = s.buf := rfl

@[simp] theorem State.setW_digest (s : State) (i : Fin 80) (v : Word) : (s.setW i v).digest = s.digest := rfl

@[simp] theorem State.setW_bitlen (s : State) (i : Fin 80) (v : Word) : (s.setW i v).bitlen = s.bitlen := rfl

@[simp] theorem State.setW_fill (s : State) (i : Fin 80) (v : Word) : (s.setW i v).fill = s.fill := rfl

@[simp] theorem State.setW_ph (s : State) (i : Fin 80) (v : Word) : (s.setW i v).ph = s.ph := rfl

@[simp] theorem State.setW_idx (s : State) (i : Fin 80) (v : Word) : (s.setW i v).idx = s.idx := rfl

@[simp] theorem State.setW_rsm (s : State) (i : Fin 80) (v : Word) : (s.setW i v).rsm = s.rsm := rfl

@[simp] theorem State.setW_dvalid (s : State) (i : Fin 80) (v : Word) : (s.setW i v).dvalid = s.dvalid := rfl

@[simp] theorem State.setW_err (s : State) (i : Fin 80) (v : Word) : (s.setW i v).err = s.err := rfl

@[simp] theorem State.setW_port (s : State) (i : Fin 80) (v : Word) : (s.setW i v).port = s.port := rfl

@[simp] theorem State.setW_turns (s : State) (i : Fin 80) (v : Word) : (s.setW i v).turns = s.turns := rfl

@[simp] theorem State.setW_responses (s : State) (i : Fin 80) (v : Word) : (s.setW i v).responses = s.responses := rfl

@[simp] theorem State.setW_fresh (s : State) (i : Fin 80) (v : Word) : (s.setW i v).fresh = s.fresh := rfl

/-! ## resetEvent (R190) -/

@[simp] theorem State.resetEvent_h (s : State) : (s.resetEvent).h = Config.resetH s.fresh := rfl

@[simp] theorem State.resetEvent_a (s : State) : (s.resetEvent).a = (Config.resetWork s.fresh)[0] := rfl

@[simp] theorem State.resetEvent_b (s : State) : (s.resetEvent).b = (Config.resetWork s.fresh)[1] := rfl

@[simp] theorem State.resetEvent_c (s : State) : (s.resetEvent).c = (Config.resetWork s.fresh)[2] := rfl

@[simp] theorem State.resetEvent_d (s : State) : (s.resetEvent).d = (Config.resetWork s.fresh)[3] := rfl

@[simp] theorem State.resetEvent_e (s : State) : (s.resetEvent).e = (Config.resetWork s.fresh)[4] := rfl

@[simp] theorem State.resetEvent_w (s : State) : (s.resetEvent).w = Config.resetW s.fresh := rfl

@[simp] theorem State.resetEvent_buf (s : State) : (s.resetEvent).buf = Config.resetBuf s.fresh := rfl

@[simp] theorem State.resetEvent_digest (s : State) : (s.resetEvent).digest = Config.resetDigest s.fresh := rfl

@[simp] theorem State.resetEvent_bitlen (s : State) : (s.resetEvent).bitlen = Config.resetBitlen s.fresh := rfl

@[simp] theorem State.resetEvent_fill (s : State) : (s.resetEvent).fill = Config.resetFill s.fresh := rfl

@[simp] theorem State.resetEvent_ph (s : State) : (s.resetEvent).ph = .idle := rfl

@[simp] theorem State.resetEvent_idx (s : State) : (s.resetEvent).idx = 0 := rfl

@[simp] theorem State.resetEvent_rsm (s : State) : (s.resetEvent).rsm = .absorb := rfl

@[simp] theorem State.resetEvent_dvalid (s : State) : (s.resetEvent).dvalid = false := rfl

@[simp] theorem State.resetEvent_err (s : State) : (s.resetEvent).err = .none := rfl

@[simp] theorem State.resetEvent_port (s : State) : (s.resetEvent).port = none := rfl

@[simp] theorem State.resetEvent_turns (s : State) : (s.resetEvent).turns = s.turns := rfl

@[simp] theorem State.resetEvent_responses (s : State) : (s.resetEvent).responses = s.responses := rfl

@[simp] theorem State.resetEvent_fresh (s : State) : (s.resetEvent).fresh = s.fresh + 1 := rfl

/-! ## countByte (R93) -/

@[simp] theorem State.countByte_h (s : State) : (s.countByte).h = s.h := rfl

@[simp] theorem State.countByte_a (s : State) : (s.countByte).a = s.a := rfl

@[simp] theorem State.countByte_b (s : State) : (s.countByte).b = s.b := rfl

@[simp] theorem State.countByte_c (s : State) : (s.countByte).c = s.c := rfl

@[simp] theorem State.countByte_d (s : State) : (s.countByte).d = s.d := rfl

@[simp] theorem State.countByte_e (s : State) : (s.countByte).e = s.e := rfl

@[simp] theorem State.countByte_w (s : State) : (s.countByte).w = s.w := rfl

@[simp] theorem State.countByte_buf (s : State) : (s.countByte).buf = s.buf := rfl

@[simp] theorem State.countByte_digest (s : State) : (s.countByte).digest = s.digest := rfl

@[simp] theorem State.countByte_bitlen (s : State) : (s.countByte).bitlen = s.bitlen + 8#64 := rfl

@[simp] theorem State.countByte_fill (s : State) : (s.countByte).fill = s.fill := rfl

@[simp] theorem State.countByte_ph (s : State) : (s.countByte).ph = s.ph := rfl

@[simp] theorem State.countByte_idx (s : State) : (s.countByte).idx = s.idx := rfl

@[simp] theorem State.countByte_rsm (s : State) : (s.countByte).rsm = s.rsm := rfl

@[simp] theorem State.countByte_dvalid (s : State) : (s.countByte).dvalid = s.dvalid := rfl

@[simp] theorem State.countByte_err (s : State) : (s.countByte).err = s.err := rfl

@[simp] theorem State.countByte_port (s : State) : (s.countByte).port = s.port := rfl

@[simp] theorem State.countByte_turns (s : State) : (s.countByte).turns = s.turns := rfl

@[simp] theorem State.countByte_responses (s : State) : (s.countByte).responses = s.responses := rfl

@[simp] theorem State.countByte_fresh (s : State) : (s.countByte).fresh = s.fresh := rfl

end Sys2Proof.Machine
end

