-- ==== Sys2Proof/Laws/Sequencer.lean ====
section
/-! SUPPORT. What the sequencer word selects (spec R76, R77), said once by phase and index, so that no proof computes
with the bits of a sequencer word. -/

namespace Sys2Proof.Machine

/-- The micro-operation of a phase and an index, by R76's table. -/
def seqInstr (p : Phase) (k : Fin 80) : Except DecodeReject Instr :=
  match p with
  | .padm => if k = 0 then .ok .padm else .error .reservedSequencer
  | .padz => if k = 0 then .ok .padz else .error .reservedSequencer
  | .padl => if h : k.val < 8 then .ok (.padl ⟨k.val, h⟩) else .error .reservedSequencer
  | .ldw => if h : k.val < 16 then .ok (.ldw ⟨k.val, h⟩) else .error .reservedSequencer
  | .exp => if 16 ≤ k.val then .ok (.exp k) else .error .reservedSequencer
  | .lds => if k = 0 then .ok .lds else .error .reservedSequencer
  | .rnd => .ok (.rnd k)
  | .chn => if k = 0 then .ok .chn else .error .reservedSequencer
  | .latch => if k = 0 then .ok .latch else .error .reservedSequencer
  | .idle => .error .noMicroOp
  | .absorb => .error .noMicroOp
  | .done => .error .noMicroOp
  | .fault => .error .noMicroOp

theorem decodeSeq_code (p : Phase) (k : Fin 80) :
    decodeSeq (p.code ++ BitVec.ofNat 7 k.val) = seqInstr p k := by
  revert k
  cases p <;> decide

theorem decodeSeq_seqWord (s : State) : decodeSeq s.seqWord = seqInstr s.ph s.idx :=
  decodeSeq_code s.ph s.idx

theorem selects_iff (s : State) (i : Instr) : s.selects i = true ↔ seqInstr s.ph s.idx = .ok i := by
  unfold State.selects
  rw [decodeSeq_seqWord]
  cases seqInstr s.ph s.idx <;> simp

theorem seqLegal_of_not_busy {s : State} (hb : s.ph.busy = false) : s.seqLegal = decide (s.idx = 0) := by
  simp [State.seqLegal, hb]

theorem seqLegal_of_busy {s : State} (hb : s.ph.busy = true) :
    s.seqLegal = true ↔ ∃ i, seqInstr s.ph s.idx = .ok i := by
  unfold State.seqLegal
  rw [decodeSeq_seqWord, if_pos hb]
  cases seqInstr s.ph s.idx <;> simp

/-- A selected micro-operation is one of a busy phase, and the state is a state of the core. -/
theorem seqLegal_of_selects {s : State} {i : Instr} (h : s.selects i = true) : s.seqLegal = true := by
  rw [selects_iff] at h
  have hb : s.ph.busy = true := by
    revert h
    cases s.ph <;> simp [seqInstr, Phase.busy]
  exact (seqLegal_of_busy hb).2 ⟨i, h⟩

/-! The selection of each micro-operation. -/

theorem selects_padm (s : State) : s.selects .padm = true ↔ s.ph = .padm ∧ s.idx = 0 := by
  rw [selects_iff]
  cases s.ph <;> simp [seqInstr] <;> split <;> simp_all

theorem selects_padz (s : State) : s.selects .padz = true ↔ s.ph = .padz ∧ s.idx = 0 := by
  rw [selects_iff]
  cases s.ph <;> simp [seqInstr] <;> split <;> simp_all

theorem selects_padl (s : State) (k : Fin 8) :
    s.selects (.padl k) = true ↔ s.ph = .padl ∧ s.idx.val = k.val := by
  rw [selects_iff]
  cases s.ph <;> simp [seqInstr] <;> grind

theorem selects_ldw (s : State) (k : Fin 16) :
    s.selects (.ldw k) = true ↔ s.ph = .ldw ∧ s.idx.val = k.val := by
  rw [selects_iff]
  cases s.ph <;> simp [seqInstr] <;> grind

theorem selects_exp (s : State) (k : Fin 80) :
    s.selects (.exp k) = true ↔ s.ph = .exp ∧ s.idx = k ∧ 16 ≤ k.val := by
  rw [selects_iff]
  cases s.ph <;> simp [seqInstr] <;> grind

theorem selects_lds (s : State) : s.selects .lds = true ↔ s.ph = .lds ∧ s.idx = 0 := by
  rw [selects_iff]
  cases s.ph <;> simp [seqInstr] <;> split <;> simp_all

theorem selects_rnd (s : State) (k : Fin 80) : s.selects (.rnd k) = true ↔ s.ph = .rnd ∧ s.idx = k := by
  rw [selects_iff]
  cases s.ph <;> simp [seqInstr] <;> split <;> simp_all

theorem selects_chn (s : State) : s.selects .chn = true ↔ s.ph = .chn ∧ s.idx = 0 := by
  rw [selects_iff]
  cases s.ph <;> simp [seqInstr] <;> split <;> simp_all

theorem selects_latch (s : State) : s.selects .latch = true ↔ s.ph = .latch ∧ s.idx = 0 := by
  rw [selects_iff]
  cases s.ph <;> simp [seqInstr] <;> split <;> simp_all

end Sys2Proof.Machine
end

