-- ==== Sys2Proof/Laws/Ops.lean ====
section
/-! SUPPORT. What each shared operation of Machine/Ops.lean can do, said once: the acceptance of a command (spec R80),
the selection of a micro-operation (R76), the push (R95), fault entry (R171). Proofs cite these and do not unfold the
operations. -/

namespace Sys2Proof.Machine

/-! ## Acceptance -/

/-- R80, case 6: a command legal in this phase is performed. -/
theorem accept_legal {s : State} {legal : Phase → Bool} {x : ErrCode} {op : Outcome}
    (hs : s.seqLegal = true) (hl : legal s.ph = true) : s.accept legal x op = op := by
  simp [State.accept, hs, hl]

/-- R80, case 2: a command not legal in this busy phase is held. -/
theorem accept_held {s : State} {legal : Phase → Bool} {x : ErrCode} {op : Outcome}
    (hs : s.seqLegal = true) (hl : legal s.ph = false) (hb : s.ph.busy = true) :
    s.accept legal x op = .next s := by
  simp [State.accept, hs, hl, hb]

/-- R80, case 3: in FAULT a command not legal there is refused. -/
theorem accept_refused {s : State} {legal : Phase → Bool} {x : ErrCode} {op : Outcome}
    (hs : s.seqLegal = true) (hl : legal s.ph = false) (hf : s.ph = .fault) :
    s.accept legal x op = .next s.refuseInFault := by
  have hl' : legal .fault = false := hf ▸ hl
  simp [State.accept, hs, hl', hf, Phase.busy]

/-- R80, cases 4 and 5: in IDLE, ABSORB and DONE a command not legal there raises the fault. -/
theorem accept_raise {s : State} {legal : Phase → Bool} {x : ErrCode} {op : Outcome}
    (hs : s.seqLegal = true) (hl : legal s.ph = false) (hb : s.ph.busy = false) (hf : s.ph ≠ .fault) :
    s.accept legal x op = .next (s.raiseCommand x) := by
  simp [State.accept, hs, hl, hb, hf]

/-- R77: a command is not accepted in a state that is no state of the core. -/
theorem accept_reserved {s : State} {legal : Phase → Bool} {x : ErrCode} {op : Outcome}
    (hs : s.seqLegal = false) : s.accept legal x op = .fault .reservedSequencer := by
  simp [State.accept, hs]

/-- Everything an acceptance that answers a next state can have done. -/
theorem accept_next {s t : State} {legal : Phase → Bool} {x : ErrCode} {op : Outcome}
    (h : s.accept legal x op = .next t) :
    s.seqLegal = true ∧
      ((legal s.ph = true ∧ op = .next t) ∨
       (legal s.ph = false ∧ s.ph.busy = true ∧ t = s) ∨
       (legal s.ph = false ∧ s.ph = .fault ∧ t = s.refuseInFault) ∨
       (legal s.ph = false ∧ s.ph.busy = false ∧ s.ph ≠ .fault ∧ t = s.raiseCommand x)) := by
  unfold State.accept at h
  split at h
  · cases h
  · rename_i hs
    refine ⟨by simpa using hs, ?_⟩
    split at h
    · rename_i hl
      exact .inl ⟨hl, h⟩
    · rename_i hl
      have hl : legal s.ph = false := by simpa using hl
      split at h
      · rename_i hb
        exact .inr (.inl ⟨hl, hb, by cases h; rfl⟩)
      · rename_i hb
        split at h
        · rename_i hf
          exact .inr (.inr (.inl ⟨hl, hf, by cases h; rfl⟩))
        · rename_i hf
          exact .inr (.inr (.inr ⟨hl, by simpa using hb, hf, by cases h; rfl⟩))

/-! ## Selection -/

theorem perform_selected {s : State} {i : Instr} {op : Outcome} (h : s.selects i = true) :
    s.perform i op = op := by
  simp [State.perform, h]

theorem perform_not_selected {s : State} {i : Instr} {op : Outcome} (h : s.selects i = false) :
    s.perform i op = .refused .notSelected := by
  simp [State.perform, h]

theorem perform_next {s t : State} {i : Instr} {op : Outcome} (h : s.perform i op = .next t) :
    s.selects i = true ∧ op = .next t := by
  unfold State.perform at h
  split at h
  · exact ⟨by assumption, h⟩
  · cases h

/-! ## Push -/

/-- R95: a push that leaves the block open. -/
theorem push_open {s : State} {v : Byte} {r : Resume} (hf : s.fill.val < 63) :
    s.push v r = some { s with
      buf := s.buf.set s.fill.val v (by omega), fill := ⟨s.fill.val + 1, by omega⟩ } := by
  have h64 : s.fill.val < 64 := by omega
  have hne : ¬ s.fill.val = 63 := by omega
  simp [State.push, h64, hne]

/-- R95: a push that completes the block starts block processing with resume code `r`. -/
theorem push_completes {s : State} {v : Byte} {r : Resume} (hf : s.fill.val = 63) :
    s.push v r = some { s with
      buf := s.buf.set s.fill.val v (by omega), fill := ⟨s.fill.val + 1, by omega⟩,
      rsm := r, ph := .ldw, idx := 0 } := by
  have h64 : s.fill.val < 64 := by omega
  simp [State.push, hf]

/-- R95: the precondition of a push fails at FILL = 64. -/
theorem push_full {s : State} {v : Byte} {r : Resume} (hf : s.fill.val = 64) : s.push v r = none := by
  simp [State.push, hf]

/-- R96 to R98: a push in which the block stays open. -/
theorem pushOr_open {s : State} {v : Byte} {r : Resume} {closed stay : State → State} (hf : s.fill.val < 63) :
    s.pushOr v r closed stay = .next (stay { s with
      buf := s.buf.set s.fill.val v (by omega), fill := ⟨s.fill.val + 1, by omega⟩ }) := by
  have hne : ¬ s.fill.val = 63 := by omega
  simp [State.pushOr, push_open hf, State.completes, hne]

/-- R96 to R98: a push that completes the block; the writes of `stay` do not happen. -/
theorem pushOr_completes {s : State} {v : Byte} {r : Resume} {closed stay : State → State} (hf : s.fill.val = 63) :
    s.pushOr v r closed stay = .next (closed { s with
      buf := s.buf.set s.fill.val v (by omega), fill := ⟨s.fill.val + 1, by omega⟩,
      rsm := r, ph := .ldw, idx := 0 }) := by
  simp [State.pushOr, push_completes hf, State.completes, hf]

theorem pushOr_full {s : State} {v : Byte} {r : Resume} {closed stay : State → State} (hf : s.fill.val = 64) :
    s.pushOr v r closed stay = .fault .bufferFull := by
  simp [State.pushOr, push_full hf]

/-- Everything a push that answers a next state can have done. -/
theorem pushOr_next {s t : State} {v : Byte} {r : Resume} {closed stay : State → State}
    (h : s.pushOr v r closed stay = .next t) :
    (∃ hf : s.fill.val < 63, t = stay { s with
      buf := s.buf.set s.fill.val v (by omega), fill := ⟨s.fill.val + 1, by omega⟩ }) ∨
    (∃ hf : s.fill.val = 63, t = closed { s with
      buf := s.buf.set s.fill.val v (by omega), fill := ⟨s.fill.val + 1, by omega⟩,
      rsm := r, ph := .ldw, idx := 0 }) := by
  rcases (by omega : s.fill.val < 63 ∨ s.fill.val = 63 ∨ s.fill.val = 64) with hf | hf | hf
  · rw [pushOr_open hf] at h
    exact .inl ⟨hf, by cases h; rfl⟩
  · rw [pushOr_completes hf] at h
    exact .inr ⟨hf, by cases h; rfl⟩
  · rw [pushOr_full hf] at h
    cases h

/-! ## Fault entry -/

/-- R171: the first cause is kept. -/
theorem raise_keeps_first_cause {s : State} {x : ErrCode} (h : s.err ≠ .none) : (s.raise x).err = s.err := by
  simp [h]

/-- R171: a cause is recorded where there is none. -/
theorem raise_records_cause {s : State} {x : ErrCode} (h : s.err = .none) : (s.raise x).err = x := by
  simp [h]

end Sys2Proof.Machine
end

