-- ==== Sys2Proof/Laws/Exec.lean ====
section
/-! SUPPORT. What each instruction that answers a next state has done, said once per instruction: the cases of its rule,
with the state each gives. Frames, invariants and two-run arguments go through these. -/

namespace Sys2Proof.Machine

/-! ## Commands -/

/-- The cases of a command outside its own effect: held while busy, refused in FAULT, or PROTOCOL. -/
def OutOfPhase (legal : Phase → Bool) (s t : State) : Prop :=
  legal s.ph = false ∧
    ((s.ph.busy = true ∧ t = s) ∨ (s.ph = .fault ∧ t = s.refuseInFault) ∨
     (s.ph.busy = false ∧ s.ph ≠ .fault ∧ t = s.raiseCommand .protocol))

theorem accept_protocol_next {s t : State} {legal : Phase → Bool} {op : Outcome}
    (h : s.accept legal .protocol op = .next t) :
    s.seqLegal = true ∧ ((legal s.ph = true ∧ op = .next t) ∨ OutOfPhase legal s t) := by
  obtain ⟨hs, ⟨hl, ho⟩ | ⟨hl, hb, ht⟩ | ⟨hl, hf, ht⟩ | ⟨hl, hb, hf, ht⟩⟩ := accept_next h
  · exact ⟨hs, .inl ⟨hl, ho⟩⟩
  · exact ⟨hs, .inr ⟨hl, .inl ⟨hb, ht⟩⟩⟩
  · exact ⟨hs, .inr ⟨hl, .inr (.inl ⟨hf, ht⟩)⟩⟩
  · exact ⟨hs, .inr ⟨hl, .inr (.inr ⟨hb, hf, ht⟩)⟩⟩

/-- R92. -/
theorem execInit_next {s t : State} (h : exec .init s = .next t) :
    s.seqLegal = true ∧
      ((s.ph.busy = true ∧ t = s) ∨ (s.ph.busy = false ∧ t = s.openComputation.respond true 0#32)) := by
  have h' : s.accept Phase.takesInit .protocol (.next (s.openComputation.respond true 0#32)) = .next t := h
  obtain ⟨hs, ⟨hl, ho⟩ | ⟨hl, ⟨hb, ht⟩ | ⟨hf, -⟩ | ⟨hb, hf, -⟩⟩⟩ := accept_protocol_next h'
  · cases ho
    refine ⟨hs, .inr ⟨?_, rfl⟩⟩
    revert hl
    cases s.ph <;> simp [Phase.takesInit, Phase.busy]
  · exact ⟨hs, .inl ⟨hb, ht⟩⟩
  · rw [hf] at hl
    cases hl
  · revert hl hb
    cases s.ph <;> simp [Phase.takesInit, Phase.busy]

/-- R93. -/
theorem execWrb_next {s t : State} {d : Byte} (h : exec (.wrb d) s = .next t) :
    s.seqLegal = true ∧
      ((s.ph = .absorb ∧ s.bitlen = 0xFFFFFFFFFFFFFFF8#64 ∧ t = s.raiseCommand .lenOverflow) ∨
       (s.ph = .absorb ∧ s.bitlen ≠ 0xFFFFFFFFFFFFFFF8#64 ∧ ∃ hf : s.fill.val < 63,
          t = { s.countByte with
            buf := s.buf.set s.fill.val d (by omega), fill := ⟨s.fill.val + 1, by omega⟩ }.respond true 0#32) ∨
       (s.ph = .absorb ∧ s.bitlen ≠ 0xFFFFFFFFFFFFFFF8#64 ∧ ∃ hf : s.fill.val = 63,
          t = { s.countByte with
            buf := s.buf.set s.fill.val d (by omega), fill := ⟨s.fill.val + 1, by omega⟩,
            rsm := .absorb, ph := .ldw, idx := 0 }.respond true 0#32) ∨
       OutOfPhase (fun p => decide (p = .absorb)) s t) := by
  have h' : s.accept (fun p => decide (p = .absorb)) .protocol
      (if s.bitlen = 0xFFFFFFFFFFFFFFF8#64 then .next (s.raiseCommand .lenOverflow)
       else s.countByte.pushOr d .absorb (fun t => t.respond true 0#32) (fun t => t.respond true 0#32)) = .next t := h
  obtain ⟨hs, ⟨hl, ho⟩ | hout⟩ := accept_protocol_next h'
  · have hp : s.ph = .absorb := by simpa using hl
    refine ⟨hs, ?_⟩
    split at ho
    · rename_i hb
      cases ho
      exact .inl ⟨hp, hb, rfl⟩
    · rename_i hb
      rcases pushOr_next ho with ⟨hf, ht⟩ | ⟨hf, ht⟩
      · exact .inr (.inl ⟨hp, hb, hf, ht⟩)
      · exact .inr (.inr (.inl ⟨hp, hb, hf, ht⟩))
  · exact ⟨hs, .inr (.inr (.inr hout))⟩

/-- R94. -/
theorem execFin_next {s t : State} (h : exec .fin s = .next t) :
    s.seqLegal = true ∧
      ((s.ph = .absorb ∧ t = { s with ph := .padm }.respond true 0#32) ∨
       OutOfPhase (fun p => decide (p = .absorb)) s t) := by
  have h' : s.accept (fun p => decide (p = .absorb)) .protocol (.next ({ s with ph := .padm }.respond true 0#32)) =
      .next t := h
  obtain ⟨hs, ⟨hl, ho⟩ | hout⟩ := accept_protocol_next h'
  · cases ho
    exact ⟨hs, .inl ⟨by simpa using hl, rfl⟩⟩
  · exact ⟨hs, .inr hout⟩

/-- R149. -/
theorem execRdw_next {s t : State} {i : Fin 5} (h : exec (.rdw i) s = .next t) :
    s.seqLegal = true ∧
      ((s.ph = .done ∧ t = s.respond true (digestWord s.digest i)) ∨
       OutOfPhase (fun p => decide (p = .done)) s t) := by
  have h' : s.accept (fun p => decide (p = .done)) .protocol (.next (s.respond true (digestWord s.digest i))) =
      .next t := h
  obtain ⟨hs, ⟨hl, ho⟩ | hout⟩ := accept_protocol_next h'
  · cases ho
    exact ⟨hs, .inl ⟨by simpa using hl, rfl⟩⟩
  · exact ⟨hs, .inr hout⟩

/-- R150. -/
theorem execRdb_next {s t : State} {j : Fin 20} (h : exec (.rdb j) s = .next t) :
    s.seqLegal = true ∧
      ((s.ph = .done ∧ t = s.respond true ((digestByte s.digest j).setWidth 32)) ∨
       OutOfPhase (fun p => decide (p = .done)) s t) := by
  have h' : s.accept (fun p => decide (p = .done)) .protocol
      (.next (s.respond true ((digestByte s.digest j).setWidth 32))) = .next t := h
  obtain ⟨hs, ⟨hl, ho⟩ | hout⟩ := accept_protocol_next h'
  · cases ho
    exact ⟨hs, .inl ⟨by simpa using hl, rfl⟩⟩
  · exact ⟨hs, .inr hout⟩

/-- R151. -/
theorem execRds_next {s t : State} (h : exec .rds s = .next t) :
    s.seqLegal = true ∧ t = s.respond true s.status := by
  have h' : s.accept (fun _ => true) .protocol (.next (s.respond true s.status)) = .next t := h
  obtain ⟨hs, ⟨-, ho⟩ | ⟨hl, -⟩⟩ := accept_protocol_next h'
  · cases ho
    exact ⟨hs, rfl⟩
  · cases hl

/-- R75, R169, R172: an illegal word accepted. -/
theorem acceptIllegal_next {s t : State} (h : s.acceptIllegal = .next t) :
    s.seqLegal = true ∧
      ((s.ph.busy = true ∧ t = s) ∨ (s.ph = .fault ∧ t = s.refuseInFault) ∨
       (s.ph.busy = false ∧ s.ph ≠ .fault ∧ t = s.raiseCommand .illegalCmd)) := by
  obtain ⟨hs, ⟨hl, -⟩ | ⟨-, hb, ht⟩ | ⟨-, hf, ht⟩ | ⟨-, hb, hf, ht⟩⟩ := accept_next h
  · cases hl
  · exact ⟨hs, .inl ⟨hb, ht⟩⟩
  · exact ⟨hs, .inr (.inl ⟨hf, ht⟩)⟩
  · exact ⟨hs, .inr (.inr ⟨hb, hf, ht⟩)⟩

/-! ## Micro-operations -/

/-- R96. -/
theorem execPadm_next {s t : State} (h : exec .padm s = .next t) :
    s.ph = .padm ∧ s.idx = 0 ∧
      ((∃ hf : s.fill.val < 63, t = { s with
          buf := s.buf.set s.fill.val 0x80#8 (by omega), fill := ⟨s.fill.val + 1, by omega⟩, ph := .padz }) ∨
       (∃ hf : s.fill.val = 63, t = { s with
          buf := s.buf.set s.fill.val 0x80#8 (by omega), fill := ⟨s.fill.val + 1, by omega⟩,
          rsm := .padz, ph := .ldw, idx := 0 })) := by
  obtain ⟨hsel, ho⟩ := perform_next (s := s) (i := .padm) h
  obtain ⟨hp, hk⟩ := (selects_padm s).1 hsel
  exact ⟨hp, hk, pushOr_next ho⟩

/-- R97. -/
theorem execPadz_next {s t : State} (h : exec .padz s = .next t) :
    s.ph = .padz ∧ s.idx = 0 ∧
      ((s.fill.val = 56 ∧ t = s.goto .padl 0) ∨
       (∃ hf : s.fill.val < 63, s.fill.val ≠ 56 ∧ t = { s with
          buf := s.buf.set s.fill.val 0x00#8 (by omega), fill := ⟨s.fill.val + 1, by omega⟩ }) ∨
       (∃ hf : s.fill.val = 63, t = { s with
          buf := s.buf.set s.fill.val 0x00#8 (by omega), fill := ⟨s.fill.val + 1, by omega⟩,
          rsm := .padz, ph := .ldw, idx := 0 })) := by
  obtain ⟨hsel, ho⟩ := perform_next (s := s) (i := .padz) h
  obtain ⟨hp, hk⟩ := (selects_padz s).1 hsel
  refine ⟨hp, hk, ?_⟩
  split at ho
  · rename_i hf
    cases ho
    exact .inl ⟨hf, rfl⟩
  · rename_i hne
    rcases pushOr_next ho with ⟨hf, ht⟩ | ⟨hf, ht⟩
    · exact .inr (.inl ⟨hf, hne, ht⟩)
    · exact .inr (.inr ⟨hf, ht⟩)

/-- R98. -/
theorem execPadl_next {s t : State} {k : Fin 8} (h : exec (.padl k) s = .next t) :
    s.ph = .padl ∧ s.idx.val = k.val ∧
      ((∃ hf : s.fill.val < 63, t = { s with
          buf := s.buf.set s.fill.val (lengthByte s.bitlen k) (by omega), fill := ⟨s.fill.val + 1, by omega⟩,
          idx := ⟨k.val + 1, by omega⟩ }) ∨
       (∃ hf : s.fill.val = 63, t = { s with
          buf := s.buf.set s.fill.val (lengthByte s.bitlen k) (by omega), fill := ⟨s.fill.val + 1, by omega⟩,
          rsm := .latch, ph := .ldw, idx := 0 })) := by
  obtain ⟨hsel, ho⟩ := perform_next (s := s) (i := .padl k) h
  obtain ⟨hp, hk⟩ := (selects_padl s k).1 hsel
  exact ⟨hp, hk, pushOr_next ho⟩

/-- R114. -/
theorem execLdw_next {s t : State} {i : Fin 16} (h : exec (.ldw i) s = .next t) :
    s.ph = .ldw ∧ s.idx.val = i.val ∧
      ((i.val = 0 ∧ s.fill.val ≠ 64 ∧ t = s.raise .internalInvariant) ∨
       (¬(i.val = 0 ∧ s.fill.val ≠ 64) ∧ i.val = 15 ∧
          t = (s.setW ⟨i.val, by omega⟩ (s.bufWord i)).goto .exp 16) ∨
       (¬(i.val = 0 ∧ s.fill.val ≠ 64) ∧ i.val ≠ 15 ∧
          t = { s.setW ⟨i.val, by omega⟩ (s.bufWord i) with idx := ⟨i.val + 1, by omega⟩ })) := by
  obtain ⟨hsel, ho⟩ := perform_next (s := s) (i := .ldw i) h
  obtain ⟨hp, hk⟩ := (selects_ldw s i).1 hsel
  refine ⟨hp, hk, ?_⟩
  split at ho
  · rename_i hc
    cases ho
    exact .inl ⟨hc.1, hc.2, rfl⟩
  · rename_i hc
    by_cases h15 : i.val = 15
    · simp only [if_pos h15] at ho
      cases ho
      exact .inr (.inl ⟨hc, h15, rfl⟩)
    · simp only [if_neg h15] at ho
      cases ho
      exact .inr (.inr ⟨hc, h15, rfl⟩)

/-- R115. -/
theorem execExp_next {s t : State} {i : Fin 80} (h : exec (.exp i) s = .next t) :
    s.ph = .exp ∧ s.idx = i ∧ 16 ≤ i.val ∧ ∃ v : Word,
      v = expandWord (s.w[i.val - 3]'(by omega)) (s.w[i.val - 8]'(by omega)) (s.w[i.val - 14]'(by omega))
        (s.w[i.val - 16]'(by omega)) ∧
      ((∃ h79 : i.val < 79, t = { s.setW i v with idx := ⟨i.val + 1, by omega⟩ }) ∨
       (i.val = 79 ∧ t = (s.setW i v).goto .lds 0)) := by
  obtain ⟨hsel, ho⟩ := perform_next (s := s) (i := .exp i) h
  obtain ⟨hp, hk, h16⟩ := (selects_exp s i).1 hsel
  refine ⟨hp, hk, h16, _, rfl, ?_⟩
  by_cases h79 : i.val < 79
  · simp only [dif_pos h79] at ho
    cases ho
    exact .inl ⟨h79, rfl⟩
  · simp only [dif_neg h79] at ho
    cases ho
    exact .inr ⟨by omega, rfl⟩

/-- R130. -/
theorem execLds_next {s t : State} (h : exec .lds s = .next t) :
    s.ph = .lds ∧ s.idx = 0 ∧
      t = { s with a := s.h[0], b := s.h[1], c := s.h[2], d := s.h[3], e := s.h[4] }.goto .rnd 0 := by
  obtain ⟨hsel, ho⟩ := perform_next (s := s) (i := .lds) h
  obtain ⟨hp, hk⟩ := (selects_lds s).1 hsel
  cases ho
  exact ⟨hp, hk, rfl⟩

/-- R131. -/
theorem execRnd_next {s t : State} {i : Fin 80} (h : exec (.rnd i) s = .next t) :
    s.ph = .rnd ∧ s.idx = i ∧ ∃ u : State,
      u = { s with
        a := rotl 5 s.a + roundF i.val s.b s.c s.d + s.e + roundK i.val + s.w[i.val]
        b := s.a
        c := rotl 30 s.b
        d := s.c
        e := s.d } ∧
      ((∃ h79 : i.val < 79, t = { u with idx := ⟨i.val + 1, by omega⟩ }) ∨ (i.val = 79 ∧ t = u.goto .chn 0)) := by
  obtain ⟨hsel, ho⟩ := perform_next (s := s) (i := .rnd i) h
  obtain ⟨hp, hk⟩ := (selects_rnd s i).1 hsel
  refine ⟨hp, hk, _, rfl, ?_⟩
  by_cases h79 : i.val < 79
  · simp only [dif_pos h79] at ho
    cases ho
    exact .inl ⟨h79, rfl⟩
  · simp only [dif_neg h79] at ho
    cases ho
    exact .inr ⟨by omega, rfl⟩

/-- R132. -/
theorem execChn_next {s t : State} (h : exec .chn s = .next t) :
    s.ph = .chn ∧ s.idx = 0 ∧
      t = { s with
        h := #v[s.h[0] + s.a, s.h[1] + s.b, s.h[2] + s.c, s.h[3] + s.d, s.h[4] + s.e]
        fill := 0 }.goto s.rsm.phase 0 := by
  obtain ⟨hsel, ho⟩ := perform_next (s := s) (i := .chn) h
  obtain ⟨hp, hk⟩ := (selects_chn s).1 hsel
  cases ho
  exact ⟨hp, hk, rfl⟩

/-- R148. -/
theorem execLatch_next {s t : State} (h : exec .latch s = .next t) :
    s.ph = .latch ∧ s.idx = 0 ∧ t = { s with digest := digestBits s.h, dvalid := true, ph := .done } := by
  obtain ⟨hsel, ho⟩ := perform_next (s := s) (i := .latch) h
  obtain ⟨hp, hk⟩ := (selects_latch s).1 hsel
  cases ho
  exact ⟨hp, hk, rfl⟩

end Sys2Proof.Machine
end

