-- ==== Sys2Proof/Laws/PerInstr.lean ====
section
/-! SUPPORT. The statement made for every instruction: its word satisfies the match and mask of its row of the opcode
table (spec R72, R76). -/

namespace Sys2Proof.Laws.RowMatch

/-- The encoding of a well-formed instruction satisfies its own row of opcode_table.json. -/
def Statement (i : Instr) : Prop :=
  i.wellFormed = true → (encode i).toNat &&& i.tableRow.2 = i.tableRow.1

theorem init : Statement .init := fun _ => rfl

theorem wrb (d : Byte) : Statement (.wrb d) := fun _ => by
  have h : ∀ x y : Fin 16, (0x10#8 ++ BitVec.ofNat 8 (16 * x.val + y.val)).toNat &&& 0xFF00 = 0x1000 := by
    decide
  have hd : d = BitVec.ofNat 8 (16 * (d.toNat / 16) + d.toNat % 16) := by
    rw [Nat.div_add_mod, BitVec.ofNat_toNat, BitVec.setWidth_eq]
  rw [hd]
  exact h ⟨d.toNat / 16, by omega⟩ ⟨d.toNat % 16, by omega⟩

theorem fin : Statement .fin := fun _ => rfl

theorem rdw (i : Fin 5) : Statement (.rdw i) := fun _ => by
  revert i
  decide

theorem rdb (j : Fin 20) : Statement (.rdb j) := fun _ => by
  revert j
  decide

theorem rds : Statement .rds := fun _ => rfl

theorem padm : Statement .padm := fun _ => rfl

theorem padz : Statement .padz := fun _ => rfl

theorem padl (k : Fin 8) : Statement (.padl k) := fun _ => by
  revert k
  decide

theorem ldw (i : Fin 16) : Statement (.ldw i) := fun _ => by
  revert i
  decide

theorem exp (i : Fin 80) : Statement (.exp i) := fun _ => by
  revert i
  decide

theorem lds : Statement .lds := fun _ => rfl

theorem rnd (i : Fin 80) : Statement (.rnd i) := fun _ => by
  revert i
  decide

theorem chn : Statement .chn := fun _ => rfl

theorem latch : Statement .latch := fun _ => rfl

end Sys2Proof.Laws.RowMatch
end

