-- ==== Sys2Proof/Laws/Step.lean ====
section
/-! SUPPORT. What one step can be (spec R80, R194): the cases of the next move, said once. -/

namespace Sys2Proof.Machine

/-- The core's own step in a busy phase runs the micro-operation selected. -/
theorem coreMove_busy {s : State} {i : Instr} (h : s.selects i = true) : s.coreMove = .execute i s := by
  have hb : s.ph.busy = true := by
    rw [selects_iff] at h
    revert h
    cases s.ph <;> simp [seqInstr, Phase.busy]
  rw [selects_iff] at h
  unfold State.coreMove
  rw [if_pos hb, decodeSeq_seqWord, h]

/-- The core does nothing in a phase that is not busy. -/
theorem coreMove_quiet {s : State} (hb : s.ph.busy = false) (hk : s.idx = 0) : s.coreMove = .quiet s := by
  simp [State.coreMove, hb, hk]

/-- A word other than RDS is held in a busy phase: the core takes its step instead. -/
theorem portMove_held {s : State} {w : CmdWord} (hb : s.ph.busy = true) (hw : w ≠ 0x5000#16) :
    s.portMove w = s.coreMove := by
  simp [State.portMove, hb, hw]

/-- RDS is accepted in every phase. -/
theorem portMove_rds (s : State) : s.portMove 0x5000#16 = .execute .rds s := rfl

/-- A legal word is accepted in a phase that is not busy. -/
theorem portMove_legal {s : State} {w : CmdWord} {i : Instr} (hb : s.ph.busy = false)
    (hw : decodeCommand w = .ok i) : s.portMove w = .execute i s := by
  simp [State.portMove, hb, hw]

/-- An illegal word is accepted in a phase that is not busy. -/
theorem portMove_illegal {s : State} {w : CmdWord} {e : DecodeReject} (hb : s.ph.busy = false)
    (hw : decodeCommand w = .error e) : s.portMove w = .illegal s := by
  simp [State.portMove, hb, hw]

/-- Everything the core's own step can be. -/
theorem coreMove_cases (s : State) :
    (∃ i, i.isCommand = false ∧ s.selects i = true ∧ s.coreMove = .execute i s) ∨
    (s.ph.busy = false ∧ s.idx = 0 ∧ s.coreMove = .quiet s) ∨
    (s.seqLegal = false ∧ s.coreMove = .reserved) := by
  cases hb : s.ph.busy
  · by_cases hk : s.idx = 0
    · exact .inr (.inl ⟨rfl, hk, coreMove_quiet hb hk⟩)
    · exact .inr (.inr ⟨by simp [seqLegal_of_not_busy hb, hk], by simp [State.coreMove, hb, hk]⟩)
  · cases hd : seqInstr s.ph s.idx with
    | ok i =>
      have hsel : s.selects i = true := (selects_iff s i).2 hd
      refine .inl ⟨i, ?_, hsel, coreMove_busy hsel⟩
      revert hd
      cases s.ph <;> simp only [seqInstr] <;> intro hd <;> (try split at hd) <;> cases hd <;> rfl
    | error e =>
      refine .inr (.inr ⟨?_, by simp [State.coreMove, hb, decodeSeq_seqWord, hd]⟩)
      simp [State.seqLegal, hb, decodeSeq_seqWord, hd]

/-- Everything the treatment of a word at the port can be: it is accepted, or the core takes its step. -/
theorem portMove_cases (s : State) (w : CmdWord) :
    (∃ i, decodeCommand w = .ok i ∧ s.portMove w = .execute i s) ∨
    (s.ph.busy = false ∧ (∃ e, decodeCommand w = .error e) ∧ s.portMove w = .illegal s) ∨
    (s.ph.busy = true ∧ w ≠ 0x5000#16 ∧ s.portMove w = s.coreMove) := by
  by_cases hw : w = 0x5000#16
  · subst hw
    exact .inl ⟨.rds, rfl, rfl⟩
  · cases hb : s.ph.busy
    · cases hd : decodeCommand w with
      | ok i => exact .inl ⟨i, rfl, portMove_legal hb hd⟩
      | error e => exact .inr (.inl ⟨rfl, ⟨e, rfl⟩, portMove_illegal hb hd⟩)
    · exact .inr (.inr ⟨rfl, hw, portMove_held hb hw⟩)

/-- Everything the next move can be: the state it happens in differs from `s` in the port and the turns at most. -/
theorem nextMove_cases (s : State) :
    (∃ r, s.turns = .reset :: r ∧ s.nextMove = .reset { s with turns := r }) ∨
    (∃ p r, (s.nextMove = { s with port := p, turns := r }.coreMove) ∨
      (∃ w, p = some w ∧ s.nextMove = { s with port := p, turns := r }.portMove w)) := by
  unfold State.nextMove
  split
  · rename_i r ht
    exact .inl ⟨r, ht, rfl⟩
  · rename_i r ht
    exact .inr ⟨s.port, r, .inl rfl⟩
  · rename_i w r ht
    split
    · rename_i hp
      exact .inr ⟨some w, r, .inr ⟨w, rfl, rfl⟩⟩
    · rename_i v hp
      refine .inr ⟨some v, s.turns, .inr ⟨v, rfl, ?_⟩⟩
      simp only [State.ownMove, hp]
      congr 1
      cases s
      simp_all
  · rename_i ht
    cases hp : s.port with
    | none =>
      refine .inr ⟨none, s.turns, .inl ?_⟩
      simp only [State.ownMove, hp]
      congr 1
      cases s
      simp_all
    | some v =>
      refine .inr ⟨some v, s.turns, .inr ⟨v, rfl, ?_⟩⟩
      simp only [State.ownMove, hp]
      congr 1
      cases s
      simp_all

/-- A step is the reset event, the run of one instruction, the acceptance of an illegal word, nothing, or a stop: in a
state that differs from `s` in the port and the turns at most. -/
theorem step_cases (s : State) :
    (∃ r, s.turns = .reset :: r ∧ step s = .next { s with turns := r }.resetEvent) ∨
    (∃ p r i, step s = exec i { s with port := p, turns := r } ∧
      ((i.isCommand = false ∧ s.selects i = true) ∨ ∃ w, p = some w ∧ decodeCommand w = .ok i)) ∨
    (∃ p r, s.ph.busy = false ∧ step s = { s with port := p, turns := r }.acceptIllegal) ∨
    (∃ p r, s.ph.busy = false ∧ s.idx = 0 ∧ step s = .next { s with port := p, turns := r }) ∨
    (s.seqLegal = false ∧ step s = .fault .reservedSequencer) := by
  have core : ∀ p r, s.nextMove = { s with port := p, turns := r }.coreMove →
      (∃ i, step s = exec i { s with port := p, turns := r } ∧ i.isCommand = false ∧ s.selects i = true) ∨
      (s.ph.busy = false ∧ s.idx = 0 ∧ step s = .next { s with port := p, turns := r }) ∨
      (s.seqLegal = false ∧ step s = .fault .reservedSequencer) := by
    intro p r h
    rcases coreMove_cases { s with port := p, turns := r } with ⟨i, hi, hsel, hm⟩ | ⟨hb, hk, hm⟩ | ⟨hl, hm⟩
    · exact .inl ⟨i, by simp [step, h, hm], hi, hsel⟩
    · exact .inr (.inl ⟨hb, hk, by simp [step, h, hm]⟩)
    · exact .inr (.inr ⟨hl, by simp [step, h, hm]⟩)
  rcases nextMove_cases s with ⟨r, ht, hm⟩ | ⟨p, r, hm | ⟨w, hp, hm⟩⟩
  · exact .inl ⟨r, ht, by simp [step, hm]⟩
  · rcases core p r hm with ⟨i, h, hi, hsel⟩ | ⟨hb, hk, h⟩ | ⟨hl, h⟩
    · exact .inr (.inl ⟨p, r, i, h, .inl ⟨hi, hsel⟩⟩)
    · exact .inr (.inr (.inr (.inl ⟨p, r, hb, hk, h⟩)))
    · exact .inr (.inr (.inr (.inr ⟨hl, h⟩)))
  · rcases portMove_cases { s with port := p, turns := r } w with ⟨i, hd, hpm⟩ | ⟨hb, -, hpm⟩ | ⟨hb, hw, hpm⟩
    · exact .inr (.inl ⟨p, r, i, by simp [step, hm, hpm], .inr ⟨w, hp, hd⟩⟩)
    · exact .inr (.inr (.inl ⟨p, r, hb, by simp [step, hm, hpm]⟩))
    · rcases core p r (hm.trans hpm) with ⟨i, h, hi, hsel⟩ | ⟨hb, hk, h⟩ | ⟨hl, h⟩
      · exact .inr (.inl ⟨p, r, i, h, .inl ⟨hi, hsel⟩⟩)
      · exact .inr (.inr (.inr (.inl ⟨p, r, hb, hk, h⟩)))
      · exact .inr (.inr (.inr (.inr ⟨hl, h⟩)))

end Sys2Proof.Machine
end

