-- ==== Sys2Proof/Tests/Slice0.lean ====
section
/-! SUPPORT. The model's own tests, expected results from spec 95_test_vectors.md and the rules' examples, each for one
step on a small state; and for every obligation with hypotheses a named state and operands that meet them. -/

namespace Sys2Proof.Tests

open Sys2Proof Sys2Proof.Machine Sys2Proof.Claims

/-! ## Helpers -/

/-- The outcome is a next state with the property. -/
def answers (o : Outcome) (p : State → Bool) : Bool :=
  match o with
  | .next t => p t
  | .fault _ => false
  | .refused _ => false

/-- The core in a phase, all else as `State.reset` has it. -/
def inPhase (p : Phase) (k : Fin 80) : State := { State.reset with ph := p, idx := k }

/-- The core in a phase with `n` bytes in the block buffer. -/
def filled (p : Phase) (k : Fin 80) (n : Fin 65) : State := { State.reset with ph := p, idx := k, fill := n }

/-- The core in FAULT with cause PROTOCOL. -/
def inFault : State := { State.reset with ph := .fault, err := .protocol }

/-- The core in DONE with the digest of "abc" (K2). -/
def doneAbc : State :=
  { State.reset with ph := .done, dvalid := true, digest := 0xa9993e364706816aba3e25717850c26c9cd0d89d#160 }

/-- IDX = 5 in IDLE: no state of the core (R77). -/
def reservedState : State := inPhase .idle 5

/-- The last response is this one. -/
def lastResponse (t : State) (ok : Bool) (data : Word) : Bool := decide (t.responses.getLast? = some ⟨ok, data⟩)

/-! ## Well-formedness -/

/-- R76: 15 is below EXP's range 16..79, the one bound that is a check and not a type. -/
theorem test_exp_below_range_ill_formed : (Instr.exp 15).wellFormed = false := by decide
theorem test_exp_first_well_formed : (Instr.exp 16).wellFormed = true := by decide

/-! ## Decoding: words written out bit by bit from R72 and R76 -/

theorem test_decode_init : decodeCommand 0b0000000000000000#16 = .ok .init := by decide
theorem test_decode_wrb : decodeCommand 0b0001000001100001#16 = .ok (.wrb 0x61#8) := by decide
theorem test_decode_wrb_all_ones : decodeCommand 0b0001000011111111#16 = .ok (.wrb 0xFF#8) := by decide
theorem test_decode_fin : decodeCommand 0b0010000000000000#16 = .ok .fin := by decide
theorem test_decode_rdw : decodeCommand 0b0011000000000100#16 = .ok (.rdw 4) := by decide
theorem test_decode_rdb : decodeCommand 0b0100000000010011#16 = .ok (.rdb 19) := by decide
theorem test_decode_rds : decodeCommand 0b0101000000000000#16 = .ok .rds := by decide
theorem test_decode_padm : decodeSeq 0b00100000000#11 = .ok .padm := by decide
theorem test_decode_padz : decodeSeq 0b00110000000#11 = .ok .padz := by decide
theorem test_decode_padl : decodeSeq 0b01000000111#11 = .ok (.padl 7) := by decide
theorem test_decode_ldw : decodeSeq 0b01010001111#11 = .ok (.ldw 15) := by decide
theorem test_decode_exp : decodeSeq 0b01101001111#11 = .ok (.exp 79) := by decide
theorem test_decode_lds : decodeSeq 0b01110000000#11 = .ok .lds := by decide
theorem test_decode_rnd : decodeSeq 0b10001001111#11 = .ok (.rnd 79) := by decide
theorem test_decode_chn : decodeSeq 0b10010000000#11 = .ok .chn := by decide
theorem test_decode_latch : decodeSeq 0b10100000000#11 = .ok .latch := by decide

/-- V7.8, V7.9, V7.12, V7.13, V7.15 to V7.20. -/
theorem test_decode_illegal_commands :
    [0x3005#16, 0x3008#16, 0x4014#16, 0x4020#16, 0x5001#16, 0x0001#16, 0x2001#16, 0x1161#16, 0x6000#16,
      0xFFFF#16].map decodeCommand = List.replicate 10 (.error .illegalCommand) := rfl

/-- R77: the neighbours of the legal ranges of IDX, and PH codes 12 to 14. -/
theorem test_decode_reserved_sequencer :
    [0x101#11, 0x181#11, 0x208#11, 0x290#11, 0x30F#11, 0x350#11, 0x381#11, 0x450#11, 0x481#11, 0x501#11, 0x600#11,
      0x680#11, 0x700#11].map decodeSeq = List.replicate 13 (.error .reservedSequencer) := rfl

/-- R77: PH codes 0, 1, 11 and 15 select nothing. -/
theorem test_decode_no_micro_operation :
    [0x000#11, 0x080#11, 0x580#11, 0x780#11].map decodeSeq = List.replicate 4 (.error .noMicroOp) := rfl

theorem test_table_word_of_rnd : decodeTableWord 16 0x44F = some (.rnd 79) := by decide
theorem test_table_word_of_rdb : decodeTableWord 16 0x4013 = some (.rdb 19) := by decide

/-! ## One step of each instruction -/

/-- V8.6: INIT is the way out of FAULT. -/
theorem test_init_leaves_fault :
    answers (exec .init inFault) (fun t => decide (t.ph = .absorb ∧ t.err = .none ∧ t.fill = 0 ∧ t.bitlen = 0#64 ∧
      t.h = #v[0x67452301#32, 0xefcdab89#32, 0x98badcfe#32, 0x10325476#32, 0xc3d2e1f0#32])
      && lastResponse t true 0#32) = true := by decide

/-- V8.13: INIT abandons an open message. -/
theorem test_init_abandons_message :
    answers (exec .init { filled .absorb 0 5 with bitlen := 40#64 })
      (fun t => decide (t.ph = .absorb ∧ t.fill = 0 ∧ t.bitlen = 0#64)) = true := by decide

/-- V3.32, first byte. -/
theorem test_wrb_last_legal_byte :
    answers (exec (.wrb 0xAA#8) { filled .absorb 0 62 with bitlen := 0xFFFFFFFFFFFFFFF0#64 })
      (fun t => decide (t.bitlen = 0xFFFFFFFFFFFFFFF8#64 ∧ t.fill = 63 ∧ t.buf[62] = 0xAA#8 ∧ t.ph = .absorb)
        && lastResponse t true 0#32) = true := by decide

/-- V3.32, second byte: LEN_OVERFLOW. -/
theorem test_wrb_length_overflow :
    answers (exec (.wrb 0xBB#8) { filled .absorb 0 63 with bitlen := 0xFFFFFFFFFFFFFFF8#64 })
      (fun t => decide (t.bitlen = 0xFFFFFFFFFFFFFFF8#64 ∧ t.fill = 63 ∧ t.buf[63] = 0x00#8 ∧ t.ph = .fault ∧
        t.status = 0x14#32) && lastResponse t false 1#32) = true := by decide

/-- V3.30, the step of FIN. -/
theorem test_fin_starts_padder :
    answers (exec .fin { filled .absorb 0 3 with bitlen := 0x18#64 })
      (fun t => decide (t.ph = .padm ∧ t.fill = 3 ∧ t.idx = 0) && lastResponse t true 0#32) = true := by decide

/-- V8.2 and V8.3. -/
theorem test_fin_before_init :
    answers (exec .fin State.reset)
      (fun t => decide (t.ph = .fault ∧ t.status = 0x34#32) && lastResponse t false 3#32) = true := by decide

/-- R149's example. -/
theorem test_rdw_first_and_last :
    answers (exec (.rdw 0) doneAbc) (fun t => lastResponse t true 0xA9993E36#32) = true ∧
    answers (exec (.rdw 4) doneAbc) (fun t => lastResponse t true 0x9CD0D89D#32) = true := by decide

/-- V8.7: a read before FIN. -/
theorem test_rdw_too_early :
    answers (exec (.rdw 0) { filled .absorb 0 1 with bitlen := 8#64 })
      (fun t => decide (t.ph = .fault ∧ t.err = .protocol ∧ t.bitlen = 8#64 ∧ t.fill = 1)
        && lastResponse t false 3#32) = true := by decide

/-- R150's example. -/
theorem test_rdb_second_and_last :
    answers (exec (.rdb 1) doneAbc) (fun t => lastResponse t true 0x99#32) = true ∧
    answers (exec (.rdb 19) doneAbc) (fun t => lastResponse t true 0x9D#32) = true := by decide

/-- V8.14: RDS while busy. -/
theorem test_rds_busy :
    answers (exec .rds (filled .rnd 79 64)) (fun t => decide (t.ph = .rnd ∧ t.idx = 79)
      && lastResponse t true 0x01#32) = true := by decide

/-- R151: RDS in ABSORB and in DONE. -/
theorem test_rds_open_and_done :
    answers (exec .rds (inPhase .absorb 0)) (fun t => lastResponse t true 0x08#32) = true ∧
    answers (exec .rds doneAbc) (fun t => lastResponse t true 0x02#32) = true := by decide

/-- V3.30, PADM. -/
theorem test_padm_abc :
    answers (exec .padm (filled .padm 0 3))
      (fun t => decide (t.buf[3] = 0x80#8 ∧ t.fill = 4 ∧ t.ph = .padz)) = true := by decide

/-- V3.31: the mark byte completes a block. -/
theorem test_padm_completes_block :
    answers (exec .padm (filled .padm 0 63))
      (fun t => decide (t.buf[63] = 0x80#8 ∧ t.fill = 64 ∧ t.rsm = .padz ∧ t.ph = .ldw ∧ t.idx = 0)) = true := by
  decide

/-- V3.30: PADZ at FILL = 56 pushes nothing. -/
theorem test_padz_finishes :
    answers (exec .padz (filled .padz 0 56)) (fun t => decide (t.fill = 56 ∧ t.ph = .padl ∧ t.idx = 0)) = true := by
  decide

/-- V3.24: at FILL = 57 the zero-fill goes on. -/
theorem test_padz_past_56 :
    answers (exec .padz { filled .padz 0 57 with buf := Vector.replicate 64 0xFF#8 })
      (fun t => decide (t.buf[57] = 0x00#8 ∧ t.buf[58] = 0xFF#8 ∧ t.fill = 58 ∧ t.ph = .padz)) = true := by decide

/-- V3.30, PADL 7. -/
theorem test_padl_last :
    answers (exec (.padl 7) { filled .padl 7 63 with bitlen := 0x18#64 })
      (fun t => decide (t.buf[63] = 0x18#8 ∧ t.fill = 64 ∧ t.rsm = .latch ∧ t.ph = .ldw ∧ t.idx = 0)) = true := by
  decide

/-- R98: k = 0 is the most significant byte. -/
theorem test_padl_first :
    answers (exec (.padl 0) { filled .padl 0 56 with bitlen := 0x0123456789ABCDE8#64 })
      (fun t => decide (t.buf[56] = 0x01#8 ∧ t.fill = 57 ∧ t.ph = .padl ∧ t.idx = 1)) = true := by decide

/-- R114's example. -/
theorem test_ldw_big_endian :
    answers (exec (.ldw 0) { filled .ldw 0 64 with
        buf := (((Vector.replicate 64 0x00#8).set 0 0x61#8).set 1 0x62#8).set 2 0x63#8 |>.set 3 0x80#8 })
      (fun t => decide (t.w[0] = 0x61626380#32 ∧ t.ph = .ldw ∧ t.idx = 1)) = true := by decide

/-- V4.6. -/
theorem test_ldw_partial_block :
    answers (exec (.ldw 0) (filled .ldw 0 63))
      (fun t => decide (t.ph = .fault ∧ t.idx = 0 ∧ t.w = State.reset.w ∧ t.status = 0x24#32)) = true := by decide

/-- V4.1, W[16]. -/
theorem test_exp_first :
    answers (exec (.exp 16) { filled .exp 16 64 with w := (Vector.replicate 80 0#32).set 0 0x61626380#32 })
      (fun t => decide (t.w[16] = 0xC2C4C700#32 ∧ t.idx = 17 ∧ t.ph = .exp)) = true := by decide

/-- V4.4c, W[18]: bit 31 wraps to bit 0; V4.1, W[19] is the same law. The last index ends the phase (R115). -/
theorem test_exp_last :
    answers (exec (.exp 79) { filled .exp 79 64 with w := (Vector.replicate 80 0#32).set 76 0x80000000#32 })
      (fun t => decide (t.w[79] = 0x00000001#32 ∧ t.idx = 0 ∧ t.ph = .lds)) = true := by decide

/-- R130's example. -/
theorem test_lds_iv :
    answers (exec .lds { filled .lds 0 64 with h := iv })
      (fun t => decide (t.a = 0x67452301#32 ∧ t.b = 0xefcdab89#32 ∧ t.c = 0x98badcfe#32 ∧ t.d = 0x10325476#32 ∧
        t.e = 0xc3d2e1f0#32 ∧ t.ph = .rnd ∧ t.idx = 0)) = true := by decide

/-- V5.1, round 0. -/
theorem test_rnd_first :
    answers (exec (.rnd 0) { filled .rnd 0 64 with
        a := 0x67452301#32, b := 0xefcdab89#32, c := 0x98badcfe#32, d := 0x10325476#32, e := 0xc3d2e1f0#32
        w := (Vector.replicate 80 0#32).set 0 0x61626380#32 })
      (fun t => decide (t.a = 0x0116fc33#32 ∧ t.b = 0x67452301#32 ∧ t.c = 0x7bf36ae2#32 ∧ t.d = 0x98badcfe#32 ∧
        t.e = 0x10325476#32 ∧ t.ph = .rnd ∧ t.idx = 1)) = true := by decide

/-- V5.1, round 79, with W[79] of V4.1. -/
theorem test_rnd_last :
    answers (exec (.rnd 79) { filled .rnd 79 64 with
        a := 0x5738d5e1#32, b := 0x860d21cc#32, c := 0x681e6df6#32, d := 0xd8fdf6ad#32, e := 0xd7b9da25#32
        w := (Vector.replicate 80 0#32).set 79 0x822e0879#32 })
      (fun t => decide (t.a = 0x42541b35#32 ∧ t.b = 0x5738d5e1#32 ∧ t.c = 0x21834873#32 ∧ t.d = 0x681e6df6#32 ∧
        t.e = 0xd8fdf6ad#32 ∧ t.ph = .chn ∧ t.idx = 0)) = true := by decide

/-- V5.1, the chaining addition of "abc", two of whose sums wrap. -/
theorem test_chn_abc :
    answers (exec .chn { filled .chn 0 64 with
        h := iv, rsm := .latch
        a := 0x42541b35#32, b := 0x5738d5e1#32, c := 0x21834873#32, d := 0x681e6df6#32, e := 0xd8fdf6ad#32 })
      (fun t => decide (t.h = #v[0xa9993e36#32, 0x4706816a#32, 0xba3e2571#32, 0x7850c26c#32, 0x9cd0d89d#32] ∧
        t.fill = 0 ∧ t.ph = .latch ∧ t.idx = 0)) = true := by decide

/-- R132: the other two places CHN returns to. -/
theorem test_chn_returns :
    answers (exec .chn { filled .chn 0 64 with rsm := .absorb }) (fun t => decide (t.ph = .absorb)) = true ∧
    answers (exec .chn { filled .chn 0 64 with rsm := .padz }) (fun t => decide (t.ph = .padz)) = true := by decide

/-- R148's example. -/
theorem test_latch_abc :
    answers (exec .latch { inPhase .latch 0 with
        h := #v[0xa9993e36#32, 0x4706816a#32, 0xba3e2571#32, 0x7850c26c#32, 0x9cd0d89d#32] })
      (fun t => decide (t.digest = 0xa9993e364706816aba3e25717850c26c9cd0d89d#160 ∧ t.dvalid = true ∧
        t.ph = .done)) = true := by decide

/-! ## The port -/

/-- V8.8: an illegal word in ABSORB. -/
theorem test_step_illegal_word :
    answers (step { inPhase .absorb 0 with turns := [.command 0x1161#16] })
      (fun t => decide (t.ph = .fault ∧ t.status = 0x44#32) && lastResponse t false 4#32) = true := by decide

/-- V8.5: an illegal word in FAULT is refused and the first cause kept. -/
theorem test_step_illegal_word_in_fault :
    answers (step { inFault with turns := [.command 0xFFFF#16] })
      (fun t => decide (t.ph = .fault ∧ t.err = .protocol) && lastResponse t false 3#32) = true := by decide

/-- V8.15: FIN is held while the core takes its step. -/
theorem test_step_held :
    answers (step { filled .padm 0 3 with turns := [.command 0x2000#16] })
      (fun t => decide (t.ph = .padz ∧ t.port = some 0x2000#16 ∧ t.responses = [])) = true := by decide

/-- R190: reset in a busy phase drops the held command. -/
theorem test_step_reset :
    answers (step { filled .rnd 7 64 with port := some 0x2000#16, turns := [.reset] })
      (fun t => decide (t.ph = .idle ∧ t.idx = 0 ∧ t.port = none ∧ t.responses = [] ∧ t.fresh = 1)) = true := by
  decide

/-- The first word after reset: RDS answers (1, 0), V8.1. -/
theorem test_first_word_after_reset :
    answers (step (State.reset.withFetchWord 16 0x5000)) (fun t => lastResponse t true 0#32) = true := by decide

/-! ## The reference layer -/

/-- K1's padding, V3.20, and the lengths of V3.5 to V3.7. -/
theorem test_pad_lengths :
    Reference.zeroCount 0 = 55 ∧ Reference.zeroCount 55 = 0 ∧ Reference.zeroCount 56 = 63 ∧
    Reference.stepsAfterFin 3 = 225 ∧ Reference.stepsAfterFin 56 = 398 ∧ Reference.stepsInAll 120 = 560 := by decide

/-- K2. -/
theorem test_digest_abc : Reference.digest [0x61#8, 0x62#8, 0x63#8] =
    ⟨0xa9993e36#32, 0x4706816a#32, 0xba3e2571#32, 0x7850c26c#32, 0x9cd0d89d#32⟩ := by decide +kernel

/-- V6.5: 56 bytes, the first length that takes a second block. -/
theorem test_digest_two_blocks : Reference.digest (List.replicate 56 0x61#8) =
    ⟨0xc2db330f#32, 0x6083854c#32, 0x99d4b5bf#32, 0xb6e8f29f#32, 0x201be699#32⟩ := by decide +kernel

/-- R10's examples. -/
theorem test_rotations :
    rotl 1 0x80000000#32 = 0x00000001#32 ∧ rotl 5 0xF8000000#32 = 0x0000001F#32 ∧
    rotl 30 0x00000001#32 = 0x40000000#32 ∧ rotl 30 0xC0000001#32 = 0x70000000#32 := by decide

/-! ## The assembler -/

/-- R81, R82: P1 written as `MSG ""`; a comment; an operand out of range is an error of assembly. -/
theorem test_assemble :
    assembleLine ['M', 'S', 'G', ' ', '"', '"'] = some [.send 0x0000#16, .send 0x2000#16] ∧
    assembleLine ['W', 'R', 'B', ' ', '0', 'x', '6', '1', ' ', ';', 'a'] = some [.send 0x1061#16] ∧
    assembleLine ['R', 'D', 'W', ' ', '5'] = none ∧
    assembleLine ['.', 'w', 'o', 'r', 'd', ' ', '0', 'x', '3', '0', '0', '5'] = some [.send 0x3005#16] := by decide

/-- The driven core answered, and this is left of the program. -/
def leaves (o : DrivenOutcome) (prog : List HostOp) (p : State → Bool) : Bool :=
  match o with
  | .next d => decide (d.prog = prog) && p d.core
  | .fault _ => false
  | .refused _ => false

/-- R82, WAIT: a poll that sees BUSY is followed by another, and one that sees it clear by none. -/
theorem test_wait_polls :
    leaves (Driven.step .host ⟨[.waitIdle], filled .rnd 79 64⟩) [.waitIdle] (fun t => lastResponse t true 0x01#32) = true ∧
    leaves (Driven.step .host ⟨[.waitIdle], doneAbc⟩) [] (fun t => lastResponse t true 0x02#32) = true := by decide

/-- R82, WAIT after R148: the poll before LATCH sees BUSY, the poll after it does not, and the next word follows. -/
theorem test_wait_then_read :
    leaves (Driven.run [.host, .core, .host, .host] ⟨[.waitIdle, .send 0x3000#16], { inPhase .latch 0 with
        h := #v[0xa9993e36#32, 0x4706816a#32, 0xba3e2571#32, 0x7850c26c#32, 0x9cd0d89d#32] }⟩) []
      (fun t => decide (t.responses = [⟨true, 0x01#32⟩, ⟨true, 0x02#32⟩, ⟨true, 0xA9993E36#32⟩])) = true := by decide

/-! ## Witnesses: for every obligation with hypotheses, a state and operands that meet them all, at the boundary of each
clause -/

/-- A message of 55 bytes is open, 440 bits. -/
def openAt55 : State := { filled .absorb 0 55 with bitlen := 440#64 }

/-- The invariant holds where a block is about to be loaded. -/
def loading : State := { filled .ldw 0 64 with rsm := .latch, bitlen := 24#64 }

/-- The invariant holds at the start of the padding of a message of 56 bytes, the longest busy span. -/
def padding56 : State := { filled .padm 0 56 with bitlen := 448#64 }

theorem witness_inv_openAt55 : openAt55.Inv :=
  ⟨by decide, by show (55 : Nat) = _; decide, by decide, by decide, by decide⟩

theorem witness_inv_loading : loading.Inv :=
  ⟨by decide, by show (64 : Nat) = 64 ∧ _; decide, by decide, by decide, by decide⟩

theorem witness_inv_padding56 : padding56.Inv :=
  ⟨by decide, by show (56 : Nat) = _; decide, by decide, by decide, by decide⟩

theorem witness_inv_inFault : inFault.Inv :=
  ⟨by decide, trivial, by decide, by decide, by decide⟩

theorem witness_inv_doneAbc : doneAbc.Inv :=
  ⟨by decide, by show (0 : Nat) = 0; rfl, by decide, by decide, by decide⟩

theorem witness_inv_reset : State.reset.Inv :=
  ⟨by decide, trivial, by decide, by decide, by decide⟩

theorem witness_DecodeOfEncode :
    (Instr.exp 16).wellFormed = true ∧ (Instr.exp 79).wellFormed = true ∧ (Instr.wrb 0xFF#8).wellFormed = true := by
  decide

theorem witness_EncodeOfDecode :
    decode (.cmd16 0x4013#16) = .ok (.rdb 19) ∧ decode (.seq11 0x34F#11) = .ok (.exp 79) := by decide

theorem witness_StepRunsDecoded :
    (decodeCommand 0x0000#16 = .ok .init ∧ State.reset.port = none ∧ State.reset.ph.busy = false) ∧
    (decodeCommand 0x5000#16 = .ok .rds ∧ ({ filled .padm 0 3 with port := some 0x5000#16 } : State).turns = []) ∧
    ((filled .padm 0 3).quietOutside = true ∧ (filled .padm 0 3).ph.busy = true ∧
      decodeSeq (filled .padm 0 3).seqWord = .ok .padm) ∧
    ((0x2000#16 : CmdWord) ≠ 0x5000#16 ∧ (inPhase .chn 0).ph.busy = true ∧
      decodeSeq (inPhase .chn 0).seqWord = .ok .chn ∧ (inPhase .chn 0).port = none) ∧
    decodeSeq (inPhase .rnd 79).seqWord = .ok (.rnd 79) := by decide

theorem witness_QuietWhenNotBusy :
    (State.reset.ph.busy = false ∧ State.reset.idx = 0 ∧ State.reset.port = none ∧ State.reset.turns = []) ∧
    ({ inFault with turns := [.core] } : State).turns = [.core] ∧ inFault.ph.busy = false := by decide

/-- An illegal word at the port, at the port with a word waiting, and presented now; in DONE, in FAULT and while busy. -/
theorem witness_IllegalWordTreated :
    (IllegalWord 0x3005#16 ∧ IllegalWord 0x0001#16 ∧ IllegalWord 0x1100#16 ∧ IllegalWord 0x4014#16 ∧
      IllegalWord 0x6000#16) ∧
    (doneAbc.seqLegal = true ∧ inFault.seqLegal = true ∧ (inPhase .exp 79).seqLegal = true ∧
      (inPhase .exp 79).ph.busy = true) ∧
    Delivers { doneAbc with port := some 0x3005#16 } 0x3005#16 { doneAbc with port := some 0x3005#16 } ∧
    Delivers { inFault with port := some 0x3005#16, turns := [.command 0#16] } 0x3005#16
      { inFault with port := some 0x3005#16, turns := [.command 0#16] } ∧
    Delivers { inPhase .exp 79 with turns := [.command 0x3005#16] } 0x3005#16
      { inPhase .exp 79 with port := some 0x3005#16 } :=
  ⟨by unfold IllegalWord; decide, by decide, .inl ⟨rfl, .inl rfl, rfl⟩, .inl ⟨rfl, .inr ⟨_, _, rfl⟩, rfl⟩,
    .inr ⟨rfl, [], rfl, rfl⟩⟩

theorem witness_FaultRefusesEveryOtherWord :
    (inFault.ph = .fault ∧ inFault.idx = 0 ∧ inFault.turns = [] ∧ inFault.port = none) ∧
    Delivers { inFault with port := some 0x5000#16 } 0x5000#16 { inFault with port := some 0x5000#16 } ∧
    Delivers { inFault with turns := [.command 0x0000#16] } 0x0000#16 { inFault with port := some 0x0000#16 } ∧
    Delivers { inFault with turns := [.command 0x0001#16] } 0x0001#16 { inFault with port := some 0x0001#16 } ∧
    ((0x0001#16 : CmdWord) ≠ 0x0000#16 ∧ (0x0001#16 : CmdWord) ≠ 0x5000#16) :=
  ⟨by decide, .inl ⟨rfl, .inl rfl, rfl⟩, .inr ⟨rfl, [], rfl, rfl⟩, .inr ⟨rfl, [], rfl, rfl⟩, by decide⟩

/-- One instruction for each of the four causes of the first part, and an illegal word for the second. -/
theorem witness_FaultsAreThese :
    (∃ t, exec (.wrb 0xBB#8) { filled .absorb 0 63 with bitlen := 0xFFFFFFFFFFFFFFF8#64 } = .next t ∧ t.ph = .fault) ∧
    (∃ t, exec (.ldw 0) (filled .ldw 0 63) = .next t ∧ t.ph = .fault) ∧
    (∃ t, exec .fin doneAbc = .next t ∧ t.ph = .fault) ∧
    (∃ t, exec (.rdb 19) openAt55 = .next t ∧ t.ph = .fault) ∧
    ∃ t, step { doneAbc with turns := [.command 0x3005#16] } = .next t ∧ t.ph = .fault :=
  ⟨⟨_, rfl, rfl⟩, ⟨_, rfl, rfl⟩, ⟨_, rfl, rfl⟩, ⟨_, rfl, rfl⟩, ⟨_, rfl, rfl⟩⟩

theorem witness_OneResponsePerCommand :
    (∃ t, exec .init State.reset = .next t) ∧ (∃ t, exec .fin (inPhase .rnd 5) = .next t) ∧
    (∃ t, exec .padm (filled .padm 0 3) = .next t) := ⟨⟨_, rfl⟩, ⟨_, rfl⟩, ⟨_, rfl⟩⟩

theorem witness_ReservedStateStops :
    reservedState.seqLegal = false ∧ reservedState.turns = [] ∧ (inPhase .exp 15).seqLegal = false ∧
    (inPhase .padl 8).seqLegal = false := by decide

theorem witness_MicroOperationNeedsItsWord :
    Instr.latch.isCommand = false ∧ (decodeSeq (inPhase .chn 0).seqWord).toOption ≠ some .latch := by decide

theorem witness_PushOnFullBufferStops :
    (filled .padm 0 64).fill.val = 64 ∧ (filled .padz 0 64).ph = .padz ∧
    ((filled .padl 7 64).ph = .padl ∧ (filled .padl 7 64).idx.val = 7) ∧
    ((filled .absorb 0 64).ph = .absorb ∧ (filled .absorb 0 64).bitlen ≠ 0xFFFFFFFFFFFFFFF8#64) := by decide

theorem witness_HeldWhileBusy :
    (inPhase .padl 7).seqLegal = true ∧ (inPhase .padl 7).ph.busy = true ∧
    (inPhase .rnd 79).seqLegal = true ∧ (inPhase .rnd 79).ph.busy = true := by decide

theorem witness_InitRule :
    State.reset.ph = .idle ∧ openAt55.ph = .absorb ∧ doneAbc.ph = .done ∧ inFault.ph = .fault ∧
    State.reset.idx = 0 ∧ openAt55.idx = 0 ∧ doneAbc.idx = 0 ∧ inFault.idx = 0 := by decide

theorem witness_WrbRule :
    (filled .absorb 0 62).fill.val < 63 ∧ (filled .absorb 0 63).fill.val = 63 ∧ (filled .absorb 0 63).ph = .absorb ∧
    (filled .absorb 0 63).idx = 0 ∧
    ({ filled .absorb 0 63 with bitlen := 0xFFFFFFFFFFFFFFF8#64 } : State).bitlen = 0xFFFFFFFFFFFFFFF8#64 ∧
    (filled .absorb 0 63).bitlen ≠ 0xFFFFFFFFFFFFFFF8#64 := by decide

theorem witness_FinRule : openAt55.ph = .absorb ∧ openAt55.idx = 0 := by decide

theorem witness_RdwRule : doneAbc.ph = .done ∧ doneAbc.idx = 0 ∧ State.reset.ph = .idle ∧ inFault.ph = .fault := by
  decide

theorem witness_RdbRule : doneAbc.ph = .done ∧ doneAbc.idx = 0 ∧ openAt55.ph = .absorb ∧ openAt55.idx = 0 := by
  decide

theorem witness_RdsRule :
    State.reset.seqLegal = true ∧ (inPhase .latch 0).seqLegal = true ∧ inFault.seqLegal = true ∧
    doneAbc.seqLegal = true ∧ doneAbc.Inv ∧ inFault.Inv :=
  ⟨by decide, by decide, by decide, by decide, witness_inv_doneAbc, witness_inv_inFault⟩

theorem witness_PadmRule :
    (filled .padm 0 62).ph = .padm ∧ (filled .padm 0 62).idx = 0 ∧ (filled .padm 0 62).fill.val < 63 ∧
    (filled .padm 0 63).fill.val = 63 := by decide

theorem witness_PadzRule :
    (filled .padz 0 56).ph = .padz ∧ (filled .padz 0 56).idx = 0 ∧ (filled .padz 0 56).fill.val = 56 ∧
    (filled .padz 0 55).fill.val ≠ 56 ∧ (filled .padz 0 62).fill.val < 63 ∧ (filled .padz 0 63).fill.val = 63 := by
  decide

theorem witness_PadlRule :
    (filled .padl 6 62).ph = .padl ∧ (filled .padl 6 62).idx.val = (6 : Fin 8).val ∧
    (filled .padl 6 62).fill.val < 63 ∧ (filled .padl 7 63).idx.val = (7 : Fin 8).val ∧
    (filled .padl 7 63).fill.val = 63 := by decide

theorem witness_LdwRule :
    ((filled .ldw 0 63).ph = .ldw ∧ (filled .ldw 0 63).idx.val = (0 : Fin 16).val ∧ (filled .ldw 0 63).fill.val ≠ 64) ∧
    ((filled .ldw 0 64).fill.val = 64) ∧ ((filled .ldw 14 64).idx.val = (14 : Fin 16).val) ∧
    ((filled .ldw 15 64).idx.val = (15 : Fin 16).val) := by decide

theorem witness_ExpRule :
    (inPhase .exp 16).ph = .exp ∧ (inPhase .exp 16).idx = 16 ∧ 16 ≤ (16 : Fin 80).val ∧
    (inPhase .exp 78).idx = 78 ∧ (inPhase .exp 79).idx = 79 := by decide

theorem witness_LdsRule : (inPhase .lds 0).ph = .lds ∧ (inPhase .lds 0).idx = 0 := by decide

/-- The four ranges of R126 at both ends. -/
theorem witness_RndRule :
    (inPhase .rnd 79).ph = .rnd ∧ (inPhase .rnd 79).idx = 79 ∧ (inPhase .rnd 78).idx = 78 ∧
    ((0 : Fin 80).val ≤ 19 ∧ (19 : Fin 80).val ≤ 19) ∧ (20 ≤ (20 : Fin 80).val ∧ (39 : Fin 80).val ≤ 39) ∧
    (40 ≤ (40 : Fin 80).val ∧ (59 : Fin 80).val ≤ 59) ∧ (60 ≤ (60 : Fin 80).val ∧ 60 ≤ (79 : Fin 80).val) := by
  decide

theorem witness_ChnRule :
    (inPhase .chn 0).ph = .chn ∧ (inPhase .chn 0).idx = 0 ∧ (inPhase .chn 0).rsm = .absorb ∧
    ({ inPhase .chn 0 with rsm := .padz } : State).rsm = .padz ∧
    ({ inPhase .chn 0 with rsm := .latch } : State).rsm = .latch := by decide

theorem witness_LatchRule : (inPhase .latch 0).ph = .latch ∧ (inPhase .latch 0).idx = 0 := by decide

/-- One step that takes a fault and one that takes none. -/
theorem witness_WriteSetsOfTheTable :
    (∃ t, exec .fin State.reset = .next t ∧ t.ph = .fault) ∧
    (∃ t, exec .padm (filled .padm 0 3) = .next t ∧ t.ph ≠ .fault) :=
  ⟨⟨_, rfl, rfl⟩, ⟨_, rfl, by decide⟩⟩

/-- A step that stores a byte, one that stores a word and one that stores nothing. -/
theorem witness_IndexedStoresFrame :
    (∃ t, exec (.wrb 0x61#8) openAt55 = .next t ∧ t.fill = 56) ∧ (∃ t, exec (.ldw 0) loading = .next t) ∧
    (∃ t, exec .latch (inPhase .latch 0) = .next t ∧ t.fill = 0) :=
  ⟨⟨_, rfl, rfl⟩, ⟨_, rfl⟩, ⟨_, rfl, rfl⟩⟩

theorem witness_DigestWrittenByLatchOnly :
    (∃ t, step (inPhase .latch 0) = .next t) ∧ (∃ t, step State.reset = .next t) ∧
    (∃ t, step { State.reset with turns := [.reset] } = .next t) := ⟨⟨_, rfl⟩, ⟨_, rfl⟩, ⟨_, rfl⟩⟩

theorem witness_BitlenCountsTheMessage :
    openAt55.Inv ∧ (∃ t, step openAt55 = .next t) ∧
    (∃ t, step { openAt55 with turns := [.command 0x1061#16] } = .next t ∧ t.bitlen = 448#64) :=
  ⟨witness_inv_openAt55, ⟨_, rfl⟩, ⟨_, rfl, rfl⟩⟩

theorem witness_FaultIsSticky :
    inFault.ph = .fault ∧ inFault.idx = 0 ∧ (∃ t, step inFault = .next t) ∧
    (∃ t, step { inFault with turns := [.command 0x0000#16] } = .next t ∧ t.ph = .absorb) ∧
    (∃ t, step { inFault with turns := [.reset] } = .next t ∧ t.ph = .idle) :=
  ⟨rfl, rfl, ⟨_, rfl⟩, ⟨_, rfl, rfl⟩, ⟨_, rfl, rfl⟩⟩

theorem witness_ResetEventFromAnyState :
    ({ filled .rnd 7 64 with port := some 0x2000#16, turns := [.reset, .core] } : State).turns = .reset :: [.core] :=
  rfl

theorem witness_EveryStepKeepsInvariant :
    loading.Inv ∧ (∃ t, step loading = .next t) ∧ padding56.Inv ∧ (∃ t, step padding56 = .next t) :=
  ⟨witness_inv_loading, ⟨_, rfl⟩, witness_inv_padding56, ⟨_, rfl⟩⟩

/-- A state that meets the invariant with the cause recorded: its step keeps the cause. -/
theorem witness_PartialBlockNeverFires :
    ({ inFault with err := .internalInvariant } : State).Inv ∧
    ∃ t, step { inFault with err := .internalInvariant } = .next t ∧ t.err = .internalInvariant :=
  ⟨⟨by decide, trivial, by decide, by decide, by decide⟩, ⟨_, rfl, rfl⟩⟩

theorem witness_EveryStepHasNext : padding56.Inv ∧ State.reset.Inv := ⟨witness_inv_padding56, witness_inv_reset⟩

theorem witness_PhaseFollowsTheGraph :
    loading.Inv ∧ (∃ t, step loading = .next t ∧ t.ph = .ldw) ∧
    (∃ t, step { loading with turns := [.reset] } = .next t ∧ t.ph = .idle) :=
  ⟨witness_inv_loading, ⟨_, rfl, rfl⟩, ⟨_, rfl, rfl⟩⟩

/-- Two open messages of 55 bytes that differ in every register that is not live. -/
theorem witness_DeadRegistersUnobservable :
    openAt55.alike { openAt55 with
      buf := openAt55.buf.set 55 0xFF#8, a := 7#32, w := Vector.replicate 80 9#32, digest := 5#160, rsm := .latch
      fresh := 3 } ∧ ∃ t, step openAt55 = .next t :=
  ⟨⟨rfl, rfl, rfl, rfl, rfl, rfl, rfl, ⟨rfl, rfl, rfl, by decide +kernel⟩⟩, ⟨_, rfl⟩⟩

/-- Two hosts that send different bytes to cores that hold different data. -/
theorem witness_ControlIgnoresData :
    ({ openAt55 with turns := [.command 0x1061#16] } : State).sameControl
      { openAt55 with turns := [.command 0x1062#16], buf := Vector.replicate 64 1#8, a := 7#32 } ∧
    ∃ t, step { openAt55 with turns := [.command 0x1061#16] } = .next t :=
  ⟨⟨rfl, rfl, rfl, rfl, rfl, rfl, rfl, rfl, .inl ⟨rfl, rfl⟩,
    .cons (.inr ⟨by decide, by decide⟩) .nil⟩, ⟨_, rfl⟩⟩

theorem witness_BusySpanEnds :
    padding56.Inv ∧ padding56.ph.busy = true ∧ padding56.quietOutside = true :=
  ⟨witness_inv_padding56, by decide, by decide⟩

theorem witness_StepsAfterFin :
    padding56.ph = .padm ∧ padding56.idx = 0 ∧ padding56.fill.val = 56 % 64 ∧ padding56.quietOutside = true := by
  decide

theorem witness_RotationLaw : 0 < 1 ∧ 1 < 32 ∧ 0 < 31 ∧ 31 < 32 := by decide

theorem witness_PaddingProperties : ([] : List Byte).length < 2 ^ 61 ∧ [0x61#8].length < 2 ^ 61 := by decide

theorem witness_BlocksPartitionThePadding : (List.replicate 64 0x61#8).length % 64 = 0 := by decide

theorem witness_ScheduleRecurrence : (List.replicate 16 0xFFFFFFFF#32).length = 16 := by decide

theorem witness_EightyStepsExpandTheBlock :
    loading.ph = .ldw ∧ loading.idx = 0 ∧ loading.fill.val = 64 ∧ loading.quietOutside = true := by decide

theorem witness_BlockIsCompressed :
    ((filled .lds 0 64).ph = .lds ∧ (filled .lds 0 64).idx = 0 ∧ (filled .lds 0 64).quietOutside = true) ∧
    loading.ph = .ldw ∧ loading.idx = 0 ∧ loading.fill.val = 64 ∧ loading.quietOutside = true := by decide

/-- A message of one byte, with a poll before FIN and a turn left to the core after it. -/
theorem witness_DigestOfEveryMessage :
    [0x61#8].length < 2 ^ 61 ∧ inFault.seqLegal = true ∧ inFault.ph.busy = false ∧ inFault.port = none ∧
    [Turn.command 0x0000#16, .command 0x1061#16, .command 0x5000#16, .command 0x2000#16, .core].filter ofMessage =
      messageTurns [0x61#8] := by decide

theorem witness_PseudoInstructionsExpand :
    ([' ', '~'] : List Char).all textChar = true ∧ (['a', '"'] : List Char).all textChar = false ∧
    (∀ x ∈ [0x00000001#32], x.getLsbD 0 = true) ∧ (0x00000002#32).getLsbD 0 = false :=
  ⟨by decide, by decide, by simp, rfl⟩

/-- The longest busy span, and 398 grants to the core. -/
theorem witness_WaitPollsUntilNotBusy :
    (padding56.seqLegal = true ∧ padding56.port = none ∧ doneAbc.seqLegal = true ∧ doneAbc.port = none) ∧
    (∃ d, Driven.step .core ⟨[.waitIdle], padding56⟩ = .next d) ∧
    padding56.Inv ∧ 398 ≤ (List.replicate 398 Grant.core).count .core :=
  ⟨by decide, ⟨_, rfl⟩, witness_inv_padding56, by decide +kernel⟩

theorem witness_ProgramOfADigest :
    (['a', 'b', 'c'] : List Char).all textChar = true ∧ (['a', 'b', 'c'] : List Char).length < 2 ^ 61 ∧
    inFault.seqLegal = true ∧ inFault.ph.busy = false ∧ inFault.port = none := by decide

end Sys2Proof.Tests
end

section
/-! PROOFS. The word primitives of spec/00_scope.md: rotation (R10), and big-endian assembly and disassembly (R12), as
numbers and bit by bit. -/

namespace Sys2Proof.Machine

/-! ## Rotation (R10) -/

theorem rotl_eq_rotateLeft {n : Nat} (hn : n < 32) (x : Word) : rotl n x = x.rotateLeft n := by
  rw [BitVec.rotateLeft_def, Nat.mod_eq_of_lt hn, rotl]

/-- R10: the part shifted left is a multiple of `2 ^ n` and the part shifted right is below it, so that `or` is `+`. -/
theorem toNat_rotl {n : Nat} (hn : n < 32) (x : Word) :
    (rotl n x).toNat = x.toNat * 2 ^ n % 2 ^ 32 + x.toNat / 2 ^ (32 - n) := by
  have hpow : 2 ^ 32 = 2 ^ (32 - n) * 2 ^ n := by rw [← Nat.pow_add, Nat.sub_add_cancel hn.le]
  have hhigh : x.toNat * 2 ^ n % 2 ^ 32 = (x.toNat % 2 ^ (32 - n)) <<< n := by
    rw [hpow, Nat.mul_mod_mul_right, Nat.shiftLeft_eq]
  have hlow : x.toNat / 2 ^ (32 - n) < 2 ^ n := Nat.div_lt_of_lt_mul (hpow ▸ x.isLt)
  rw [rotl, BitVec.toNat_or, BitVec.toNat_shiftLeft, BitVec.toNat_ushiftRight, Nat.shiftLeft_eq,
    Nat.shiftRight_eq_div_pow, hhigh, Nat.shiftLeft_add_eq_or_of_lt hlow]

/-- R10: no bit is lost; the top `n` bits wrap round to the bottom. -/
theorem getLsbD_rotl {n j : Nat} (hn : n < 32) (hj : j < 32) (x : Word) :
    (rotl n x).getLsbD ((j + n) % 32) = x.getLsbD j := by
  rw [rotl_eq_rotateLeft hn, BitVec.getLsbD_rotateLeft, Nat.mod_eq_of_lt hn]
  by_cases hwrap : j + n < 32
  · have hbit : (j + n) % 32 = j + n := Nat.mod_eq_of_lt hwrap
    simp [hbit, hwrap]
  · have hbit : (j + n) % 32 = j + n - 32 := by omega
    have hbelow : j + n - 32 < n := by omega
    have hsource : 32 - n + (j + n - 32) = j := by omega
    simp [hbit, hbelow, hsource]

/-- Settles O45: the number by `toNat_rotl`, the bits by `getLsbD_rotl`. -/
theorem rotationLaw : Obligations.RotationLaw :=
  fun _ x _ hn => ⟨toNat_rotl hn x, fun _ hj => getLsbD_rotl hn hj x⟩

/-! ## Big-endian assembly and disassembly (R12) -/

theorem toNat_append_eq_mul_add {m n : Nat} (x : BitVec m) (y : BitVec n) :
    (x ++ y).toNat = x.toNat * 2 ^ n + y.toNat := by
  rw [BitVec.toNat_append, ← Nat.shiftLeft_add_eq_or_of_lt y.isLt, Nat.shiftLeft_eq]

theorem toNat_be32 (b0 b1 b2 b3 : Byte) :
    (be32 b0 b1 b2 b3).toNat = b0.toNat * 2 ^ 24 + b1.toNat * 2 ^ 16 + b2.toNat * 2 ^ 8 + b3.toNat := by
  simp only [be32, toNat_append_eq_mul_add]
  omega

theorem wordByte_eq_ofNat_div (v : Word) (k : Fin 4) :
    wordByte v k = BitVec.ofNat 8 (v.toNat / 2 ^ (24 - 8 * k.val)) := by
  rw [wordByte, BitVec.extractLsb', Nat.shiftRight_eq_div_pow]

theorem lengthByte_eq_ofNat_div (v : BitVec 64) (k : Fin 8) :
    lengthByte v k = BitVec.ofNat 8 (v.toNat / 2 ^ (56 - 8 * k.val)) := by
  rw [lengthByte, BitVec.extractLsb', Nat.shiftRight_eq_div_pow]

@[simp] theorem length_be32bytes (v : Word) : (be32bytes v).length = 4 := by simp [be32bytes]

@[simp] theorem length_be64bytes (v : BitVec 64) : (be64bytes v).length = 8 := by simp [be64bytes]

theorem getD_be32bytes (v : Word) (k : Fin 4) (d : Byte) : (be32bytes v).getD k.val d = wordByte v k := by
  simp [be32bytes]

theorem getD_be64bytes (v : BitVec 64) (k : Fin 8) (d : Byte) :
    (be64bytes v).getD k.val d = lengthByte v k := by
  simp [be64bytes]

/-- Settles O46: `be32` is a chain of appends, and each byte of the two lists is a field of the value, that is, a
quotient by a power of two. -/
theorem bigEndianLaw : Obligations.BigEndianLaw :=
  ⟨toNat_be32,
    fun v => ⟨length_be64bytes v, fun k => (getD_be64bytes v k _).trans (lengthByte_eq_ofNat_div v k)⟩,
    fun v => ⟨length_be32bytes v, fun k => (getD_be32bytes v k _).trans (wordByte_eq_ofNat_div v k)⟩⟩

end Sys2Proof.Machine
end

section
/-! PROOFS. What one instruction and one step can do (spec 10_state.md R35, R80, R171), gathered from the laws of each
instruction into one relation per kind of outcome: a command is declined, the partial-block assertion fails, or the
instruction performs its own rule. The statements about the registers go through these relations. -/

namespace Sys2Proof.Machine

/-! ## The writes that several rules share -/

/-- R95: the byte is stored at BUF[FILL] and counted. -/
@[simps] def State.store (s : State) (v : Byte) (hf : s.fill.val < 64) : State :=
  { s with buf := s.buf.set s.fill.val v hf, fill := ⟨s.fill.val + 1, by omega⟩ }

/-- R95: the block is complete and is processed next, to resume at `r`. -/
@[simps] def State.startBlock (s : State) (r : Resume) : State := { s with rsm := r, ph := .ldw, idx := 0 }

/-- R31: a phase that loops goes on at the index `k`. -/
@[simps] def State.setIdx (s : State) (k : Fin 80) : State := { s with idx := k }

/-- R131: the working registers after the round of index IDX. -/
@[simps] def State.round (s : State) : State :=
  { s with
    a := rotl 5 s.a + roundF s.idx.val s.b s.c s.d + s.e + roundK s.idx.val + s.w[s.idx.val]
    b := s.a
    c := rotl 30 s.b
    d := s.c
    e := s.d }

/-- R115: the word of index IDX. -/
def State.expandedWord (s : State) : Word :=
  expandWord s.w[s.idx.val - 3] s.w[s.idx.val - 8] s.w[s.idx.val - 14] s.w[s.idx.val - 16]

/-! ## The outcomes of an instruction -/

/-- R80, R171, R172: what becomes of a command that is not performed. -/
inductive Declines (s : State) : State → Prop
  | held (hb : s.ph.busy = true) : Declines s s
  | refused (hf : s.ph = .fault) : Declines s s.refuseInFault
  | raised {x : ErrCode} (hk : s.idx = 0) (hb : s.ph.busy = false) (hf : s.ph ≠ .fault) (hx : x ≠ .none)
      (hi : x ≠ .internalInvariant) : Declines s (s.raiseCommand x)

/-- R114, R167: the partial-block assertion fails. -/
def PartialBlock (s t : State) : Prop :=
  s.ph = .ldw ∧ s.fill.val ≠ 64 ∧ t = s.raise .internalInvariant

/-- What an instruction does where its own rule is performed, one constructor for each branch of the rule. -/
inductive Performs : Instr → State → State → Prop
  | init {s} (hb : s.ph.busy = false) : Performs .init s (s.openComputation.respond true 0#32)
  | wrbOpen {s d} (hp : s.ph = .absorb) (hk : s.idx = 0) (hn : s.bitlen ≠ 0xFFFFFFFFFFFFFFF8#64)
      (hf : s.fill.val < 63) :
      Performs (.wrb d) s ((s.countByte.store d (Nat.lt_succ_of_lt hf)).respond true 0#32)
  | wrbFull {s d} (hp : s.ph = .absorb) (hk : s.idx = 0) (hn : s.bitlen ≠ 0xFFFFFFFFFFFFFFF8#64)
      (hf : s.fill.val = 63) :
      Performs (.wrb d) s (((s.countByte.store d (Nat.lt_succ_of_le hf.le)).startBlock .absorb).respond true 0#32)
  | fin {s} (hp : s.ph = .absorb) (hk : s.idx = 0) : Performs .fin s ({ s with ph := .padm }.respond true 0#32)
  | rdw {s i} (hp : s.ph = .done) : Performs (.rdw i) s (s.respond true (digestWord s.digest i))
  | rdb {s j} (hp : s.ph = .done) : Performs (.rdb j) s (s.respond true ((digestByte s.digest j).setWidth 32))
  | rds {s} : Performs .rds s (s.respond true s.status)
  | padmOpen {s} (hp : s.ph = .padm) (hk : s.idx = 0) (hf : s.fill.val < 63) :
      Performs .padm s { s.store 0x80#8 (Nat.lt_succ_of_lt hf) with ph := .padz }
  | padmFull {s} (hp : s.ph = .padm) (hk : s.idx = 0) (hf : s.fill.val = 63) :
      Performs .padm s ((s.store 0x80#8 (Nat.lt_succ_of_le hf.le)).startBlock .padz)
  | padzEnd {s} (hp : s.ph = .padz) (hk : s.idx = 0) (hf : s.fill.val = 56) : Performs .padz s (s.goto .padl 0)
  | padzOpen {s} (hp : s.ph = .padz) (hk : s.idx = 0) (hf : s.fill.val < 63) (hne : s.fill.val ≠ 56) :
      Performs .padz s (s.store 0x00#8 (Nat.lt_succ_of_lt hf))
  | padzFull {s} (hp : s.ph = .padz) (hk : s.idx = 0) (hf : s.fill.val = 63) :
      Performs .padz s ((s.store 0x00#8 (Nat.lt_succ_of_le hf.le)).startBlock .padz)
  | padlOpen {s} {k : Fin 8} (hp : s.ph = .padl) (hk : s.idx.val = k.val) (hf : s.fill.val < 63) :
      Performs (.padl k) s
        ((s.store (lengthByte s.bitlen k) (Nat.lt_succ_of_lt hf)).setIdx ⟨s.idx.val + 1, by omega⟩)
  | padlFull {s} {k : Fin 8} (hp : s.ph = .padl) (hk : s.idx.val = k.val) (hf : s.fill.val = 63) :
      Performs (.padl k) s ((s.store (lengthByte s.bitlen k) (Nat.lt_succ_of_le hf.le)).startBlock .latch)
  | ldwNext {s} {i : Fin 16} (hp : s.ph = .ldw) (hk : s.idx.val = i.val) (hi : i.val ≠ 15) :
      Performs (.ldw i) s ((s.setW s.idx (s.bufWord i)).setIdx ⟨s.idx.val + 1, by omega⟩)
  | ldwLast {s} {i : Fin 16} (hp : s.ph = .ldw) (hk : s.idx.val = i.val) (hi : i.val = 15) :
      Performs (.ldw i) s ((s.setW s.idx (s.bufWord i)).goto .exp 16)
  | expNext {s} (hp : s.ph = .exp) (hk : 16 ≤ s.idx.val) (hi : s.idx.val < 79) :
      Performs (.exp s.idx) s ((s.setW s.idx s.expandedWord).setIdx ⟨s.idx.val + 1, by omega⟩)
  | expLast {s} (hp : s.ph = .exp) (hi : s.idx.val = 79) :
      Performs (.exp s.idx) s ((s.setW s.idx s.expandedWord).goto .lds 0)
  | lds {s} (hp : s.ph = .lds) (hk : s.idx = 0) :
      Performs .lds s ({ s with a := s.h[0], b := s.h[1], c := s.h[2], d := s.h[3], e := s.h[4] }.goto .rnd 0)
  | rndNext {s} (hp : s.ph = .rnd) (hi : s.idx.val < 79) :
      Performs (.rnd s.idx) s (s.round.setIdx ⟨s.idx.val + 1, by omega⟩)
  | rndLast {s} (hp : s.ph = .rnd) (hi : s.idx.val = 79) : Performs (.rnd s.idx) s (s.round.goto .chn 0)
  | chn {s} (hp : s.ph = .chn) (hk : s.idx = 0) :
      Performs .chn s ({ s with
        h := #v[s.h[0] + s.a, s.h[1] + s.b, s.h[2] + s.c, s.h[3] + s.d, s.h[4] + s.e]
        fill := 0 }.goto s.rsm.phase 0)
  | latch {s} (hp : s.ph = .latch) (hk : s.idx = 0) :
      Performs .latch s { s with digest := digestBits s.h, dvalid := true, ph := .done }

theorem idx_eq_zero_of_seqLegal {s : State} (hs : s.seqLegal = true) (hb : s.ph.busy = false) : s.idx = 0 := by
  simpa [seqLegal_of_not_busy hb] using hs

/-- R75, R169, R172: an illegal word that is accepted is declined. -/
theorem declines_of_acceptIllegal {s t : State} (h : s.acceptIllegal = .next t) : Declines s t := by
  obtain ⟨hs, ⟨hb, rfl⟩ | ⟨hf, rfl⟩ | ⟨hb, hf, rfl⟩⟩ := acceptIllegal_next h
  · exact .held hb
  · exact .refused hf
  · exact .raised (idx_eq_zero_of_seqLegal hs hb) hb hf (by decide) (by decide)

theorem OutOfPhase.declines {legal : Phase → Bool} {s t : State} (hs : s.seqLegal = true)
    (h : OutOfPhase legal s t) : Declines s t := by
  obtain ⟨-, ⟨hb, rfl⟩ | ⟨hf, rfl⟩ | ⟨hb, hf, rfl⟩⟩ := h
  · exact .held hb
  · exact .refused hf
  · exact .raised (idx_eq_zero_of_seqLegal hs hb) hb hf (by decide) (by decide)

/-- Everything an instruction that answers a next state can have done. -/
theorem exec_next {i : Instr} {s t : State} (h : exec i s = .next t) :
    Declines s t ∨ PartialBlock s t ∨ Performs i s t := by
  cases i with
  | init =>
    obtain ⟨-, ⟨hb, rfl⟩ | ⟨hb, rfl⟩⟩ := execInit_next h
    · exact .inl (.held hb)
    · exact .inr (.inr (.init hb))
  | wrb d =>
    obtain ⟨hs, hcase⟩ := execWrb_next h
    have hk (hp : s.ph = .absorb) : s.idx = 0 := idx_eq_zero_of_seqLegal hs (by rw [hp]; rfl)
    obtain ⟨hp, -, rfl⟩ | ⟨hp, hn, hf, rfl⟩ | ⟨hp, hn, hf, rfl⟩ | hout := hcase
    · exact .inl (.raised (hk hp) (by rw [hp]; rfl) (by simp [hp]) (by decide) (by decide))
    · exact .inr (.inr (.wrbOpen hp (hk hp) hn hf))
    · exact .inr (.inr (.wrbFull hp (hk hp) hn hf))
    · exact .inl (hout.declines hs)
  | fin =>
    obtain ⟨hs, ⟨hp, rfl⟩ | hout⟩ := execFin_next h
    · exact .inr (.inr (.fin hp (idx_eq_zero_of_seqLegal hs (by rw [hp]; rfl))))
    · exact .inl (hout.declines hs)
  | rdw k =>
    obtain ⟨hs, ⟨hp, rfl⟩ | hout⟩ := execRdw_next h
    · exact .inr (.inr (.rdw hp))
    · exact .inl (hout.declines hs)
  | rdb j =>
    obtain ⟨hs, ⟨hp, rfl⟩ | hout⟩ := execRdb_next h
    · exact .inr (.inr (.rdb hp))
    · exact .inl (hout.declines hs)
  | rds =>
    obtain ⟨-, rfl⟩ := execRds_next h
    exact .inr (.inr .rds)
  | padm =>
    obtain ⟨hp, hk, ⟨hf, rfl⟩ | ⟨hf, rfl⟩⟩ := execPadm_next h
    · exact .inr (.inr (.padmOpen hp hk hf))
    · exact .inr (.inr (.padmFull hp hk hf))
  | padz =>
    obtain ⟨hp, hk, ⟨hf, rfl⟩ | ⟨hf, hne, rfl⟩ | ⟨hf, rfl⟩⟩ := execPadz_next h
    · exact .inr (.inr (.padzEnd hp hk hf))
    · exact .inr (.inr (.padzOpen hp hk hf hne))
    · exact .inr (.inr (.padzFull hp hk hf))
  | padl k =>
    obtain ⟨hp, hk, hcase⟩ := execPadl_next h
    simp only [← hk] at hcase
    obtain ⟨hf, rfl⟩ | ⟨hf, rfl⟩ := hcase
    · exact .inr (.inr (.padlOpen hp hk hf))
    · exact .inr (.inr (.padlFull hp hk hf))
  | ldw i =>
    obtain ⟨hp, hk, hcase⟩ := execLdw_next h
    simp only [← hk] at hcase
    obtain ⟨-, hf, rfl⟩ | ⟨-, hi, rfl⟩ | ⟨-, hi, rfl⟩ := hcase
    · exact .inr (.inl ⟨hp, hf, rfl⟩)
    · exact .inr (.inr (.ldwLast hp hk (hk ▸ hi)))
    · exact .inr (.inr (.ldwNext hp hk (hk ▸ hi)))
  | exp i =>
    obtain ⟨hp, rfl, hk, _, rfl, ⟨hi, rfl⟩ | ⟨hi, rfl⟩⟩ := execExp_next h
    · exact .inr (.inr (.expNext hp hk hi))
    · exact .inr (.inr (.expLast hp hi))
  | lds =>
    obtain ⟨hp, hk, rfl⟩ := execLds_next h
    exact .inr (.inr (.lds hp hk))
  | rnd i =>
    obtain ⟨hp, rfl, u, rfl, ⟨hi, rfl⟩ | ⟨hi, rfl⟩⟩ := execRnd_next h
    · exact .inr (.inr (.rndNext hp hi))
    · exact .inr (.inr (.rndLast hp hi))
  | chn =>
    obtain ⟨hp, hk, rfl⟩ := execChn_next h
    exact .inr (.inr (.chn hp hk))
  | latch =>
    obtain ⟨hp, hk, rfl⟩ := execLatch_next h
    exact .inr (.inr (.latch hp hk))

/-! ## The outcomes of a step -/

/-- The two states differ in the port and the turns at most. -/
def SameCore (s u : State) : Prop := ∃ p r, u = { s with port := p, turns := r }

theorem SameCore.refl (s : State) : SameCore s s := ⟨s.port, s.turns, rfl⟩

/-- What a step that is no reset event does in the state `u` it finds: nothing, the acceptance of an illegal word, the
word delivered, or a micro-operation. -/
inductive Moves (s u t : State) : Prop
  | quiet (ht : t = u)
  | illegal (he : u.acceptIllegal = .next t)
  | command {i : Instr} {w : CmdWord} (hw : Claims.Delivers s w u) (hd : decodeCommand w = .ok i)
      (he : exec i u = .next t)
  | micro {i : Instr} (hi : i.isCommand = false) (he : exec i u = .next t)

/-- The next move: a word is treated only where it is delivered. -/
theorem nextMove_delivers (s : State) :
    (∃ r, s.turns = .reset :: r ∧ s.nextMove = .reset { s with turns := r }) ∨
    ∃ u, SameCore s u ∧
      (s.nextMove = u.coreMove ∨ ∃ w, Claims.Delivers s w u ∧ s.nextMove = u.portMove w) := by
  have own (hm : s.nextMove = s.ownMove) (ht : s.turns = [] ∨ ∃ v r, s.turns = .command v :: r) :
      s.nextMove = s.coreMove ∨ ∃ w, Claims.Delivers s w s ∧ s.nextMove = s.portMove w := by
    cases hp : s.port with
    | none => exact .inl (by simp [hm, State.ownMove, hp])
    | some w => exact .inr ⟨w, .inl ⟨hp, ht, rfl⟩, by simp [hm, State.ownMove, hp]⟩
  cases ht : s.turns with
  | nil => exact .inr ⟨s, .refl s, own (by simp [State.nextMove, ht]) (.inl ht)⟩
  | cons turn r =>
    cases turn with
    | reset => exact .inl ⟨r, rfl, by simp [State.nextMove, ht]⟩
    | core => exact .inr ⟨_, ⟨s.port, r, rfl⟩, .inl (by simp [State.nextMove, ht])⟩
    | command w =>
      cases hp : s.port with
      | none =>
        exact .inr ⟨_, ⟨some w, r, rfl⟩, .inr ⟨w, .inr ⟨hp, r, ht, rfl⟩,
          by simp [State.nextMove, State.ownMove, ht, hp]⟩⟩
      | some v => exact .inr ⟨s, .refl s, own (by simp [State.nextMove, ht, hp]) (.inr ⟨w, r, ht⟩)⟩

/-- Everything a step that answers a next state can have done. -/
theorem step_next {s t : State} (h : step s = .next t) :
    (∃ r, s.turns = .reset :: r ∧ t = { s with turns := r }.resetEvent) ∨ ∃ u, SameCore s u ∧ Moves s u t := by
  have core {u : State} (hm : s.nextMove = u.coreMove) : Moves s u t := by
    rcases coreMove_cases u with ⟨i, hi, -, hu⟩ | ⟨-, -, hu⟩ | ⟨-, hu⟩ <;> simp only [step, hm, hu] at h
    · exact .micro hi h
    · exact .quiet (by cases h; rfl)
    · cases h
  rcases nextMove_delivers s with ⟨r, ht, hm⟩ | ⟨u, hu, hm | ⟨w, hw, hm⟩⟩
  · simp only [step, hm] at h
    exact .inl ⟨r, ht, by cases h; rfl⟩
  · exact .inr ⟨u, hu, core hm⟩
  · refine .inr ⟨u, hu, ?_⟩
    rcases portMove_cases u w with ⟨i, hd, hp⟩ | ⟨-, -, hp⟩ | ⟨-, -, hp⟩
    · exact .command hw hd (by simpa only [step, hm, hp] using h)
    · exact .illegal (by simpa only [step, hm, hp] using h)
    · exact core (hm.trans hp)

end Sys2Proof.Machine
end

section
/-! PROOFS. The invariant of the reachable states (spec 10_state.md R40): every step keeps it, and what follows from it
for one step. -/

namespace Sys2Proof.Machine

/-! ## The states of the core -/

/-- R77: the indices a phase has. -/
def Phase.hasIndex (p : Phase) (k : Fin 80) : Prop :=
  match p with
  | .padl => k.val < 8
  | .ldw => k.val < 16
  | .exp => 16 ≤ k.val
  | .rnd => True
  | _ => k = 0

theorem exists_seqInstr_iff_hasIndex {p : Phase} (hb : p.busy = true) (k : Fin 80) :
    (∃ i, seqInstr p k = .ok i) ↔ p.hasIndex k := by
  cases p <;> simp only [seqInstr, Phase.hasIndex] <;> (try split) <;> simp_all [Phase.busy]

theorem seqLegal_iff_hasIndex (s : State) : s.seqLegal = true ↔ s.ph.hasIndex s.idx := by
  cases hb : s.ph.busy
  · rw [seqLegal_of_not_busy hb, decide_eq_true_iff]
    cases hp : s.ph <;> simp_all [Phase.busy, Phase.hasIndex]
  · rw [seqLegal_of_busy hb, exists_seqInstr_iff_hasIndex hb]

/-! ## What the invariant says in a phase -/

/-- ABSORB and the busy phases: a message is open or its digest is being computed. -/
def Phase.computing (p : Phase) : Bool := p.busy || decide (p = .absorb)

/-- The phases of block processing up to the end of CHN. -/
def Phase.inBlock (p : Phase) : Bool := decide (p ∈ [Phase.ldw, .exp, .lds, .rnd, .chn])

/-- R40 (c), (g): what holds while a block is processed. -/
def State.blockInv (s : State) : Prop := s.fill.val = 64 ∧ (s.rsm = .absorb → s.bitlen.toNat / 8 % 64 = 0)

theorem phaseInv_iff_blockInv {s : State} (hp : s.ph.inBlock = true) : s.phaseInv ↔ s.blockInv := by
  unfold State.phaseInv
  cases hq : s.ph <;> simp_all [Phase.inBlock, State.blockInv]

theorem Phase.computing_of_inBlock {p : Phase} (hp : p.inBlock = true) : p.computing = true := by
  revert hp
  cases p <;> decide

/-- R171: fault entry meets the invariant. -/
theorem inv_raise {s : State} {x : ErrCode} (hk : s.idx = 0) (hx : x ≠ .none) : (s.raise x).Inv where
  seq := by simp [seqLegal_iff_hasIndex, Phase.hasIndex, hk]
  phase := trivial
  bits _ h := absurd rfl h
  valid := by simp
  cause := by
    by_cases he : s.err = .none <;> simp [he, hx]

section
variable {s t : State} (hs : s.Inv)
include hs

theorem State.Inv.hasIndex_idx : s.ph.hasIndex s.idx := (seqLegal_iff_hasIndex s).1 hs.seq

theorem State.Inv.err_of_ne_fault (hp : s.ph ≠ .fault) : s.err = .none := by
  simpa using mt hs.cause.1 hp

theorem State.Inv.bits_of_computing (hp : s.ph.computing = true) : s.bitlen.toNat % 8 = 0 :=
  hs.bits (fun h => by simp [h, Phase.computing, Phase.busy] at hp)
    fun h => by simp [h, Phase.computing, Phase.busy] at hp

theorem State.Inv.fill_of_absorb (hp : s.ph = .absorb) : s.fill.val = s.bitlen.toNat / 8 % 64 := by
  simpa [State.phaseInv, hp] using hs.phase

theorem State.Inv.fill_of_padm (hp : s.ph = .padm) : s.fill.val = s.bitlen.toNat / 8 % 64 := by
  simpa [State.phaseInv, hp] using hs.phase

theorem State.Inv.fill_of_padz (hp : s.ph = .padz) : s.fill.val ≤ 63 := by
  simpa [State.phaseInv, hp] using hs.phase

theorem State.Inv.fill_of_padl (hp : s.ph = .padl) : s.fill.val = 56 + s.idx.val ∧ s.idx.val < 8 := by
  have hk := hs.hasIndex_idx
  have hfill := hs.phase
  simp only [State.phaseInv, Phase.hasIndex, hp] at hk hfill
  exact ⟨hfill, hk⟩

theorem State.Inv.block_of_inBlock (hp : s.ph.inBlock = true) : s.blockInv :=
  (phaseInv_iff_blockInv hp).1 hs.phase

/-! ## The steps that keep it -/

/-- The invariant speaks neither of the port nor of the turns. -/
theorem State.Inv.of_sameCore (h : SameCore s t) : t.Inv := by
  obtain ⟨p, r, rfl⟩ := h
  exact ⟨hs.seq, hs.phase, hs.bits, hs.valid, hs.cause⟩

/-- A response changes no register. -/
theorem State.Inv.respond (ok : Bool) (data : Word) : (s.respond ok data).Inv :=
  ⟨hs.seq, hs.phase, hs.bits, hs.valid, hs.cause⟩

/-- Inside a computation DVALID and ERR stay clear; what is left to show of a step there. -/
theorem State.Inv.advance (hp : s.ph.computing = true) (hp' : t.ph.computing = true) (hk : t.ph.hasIndex t.idx)
    (hphase : t.phaseInv) (hbits : t.bitlen.toNat % 8 = 0) (hv : t.dvalid = s.dvalid := by rfl)
    (he : t.err = s.err := by rfl) : t.Inv where
  seq := (seqLegal_iff_hasIndex t).2 hk
  phase := hphase
  bits _ _ := hbits
  valid := by
    rw [hv, hs.valid]
    constructor <;> intro h <;> simp_all [Phase.computing, Phase.busy]
  cause := by
    rw [he, hs.cause]
    constructor <;> intro h <;> simp_all [Phase.computing, Phase.busy]

/-- A step from one phase of block processing to another: only the index is left to show. -/
theorem State.Inv.advanceInBlock (hp : s.ph.inBlock = true) (hp' : t.ph.inBlock = true) (hk : t.ph.hasIndex t.idx)
    (hf : t.fill = s.fill := by rfl) (hr : t.rsm = s.rsm := by rfl) (hb : t.bitlen = s.bitlen := by rfl)
    (hv : t.dvalid = s.dvalid := by rfl) (he : t.err = s.err := by rfl) : t.Inv := by
  have hblock : t.blockInv := by
    simpa only [State.blockInv, hf, hr, hb] using hs.block_of_inBlock hp
  have hc := Phase.computing_of_inBlock hp
  exact hs.advance hc (Phase.computing_of_inBlock hp') hk ((phaseInv_iff_blockInv hp').2 hblock)
    (hb ▸ hs.bits_of_computing hc) hv he

/-- R95: a push that completes the block starts block processing. -/
theorem State.Inv.startBlock {u : State} {v : Byte} {r : Resume} (hp : s.ph.computing = true)
    (hf : u.fill.val = 63) (hr : r = .absorb → u.bitlen.toNat / 8 % 64 = 0) (hbits : u.bitlen.toNat % 8 = 0)
    (hv : u.dvalid = s.dvalid := by rfl) (he : u.err = s.err := by rfl) :
    ((u.store v (Nat.lt_succ_of_le hf.le)).startBlock r).Inv :=
  hs.advance hp rfl (Nat.zero_lt_succ _) ⟨by simp [hf], hr⟩ hbits hv he

/-- R93: BITLEN is below its last multiple of 8, so that one more byte does not wrap it. -/
theorem State.Inv.toNat_bitlen_countByte (hp : s.ph = .absorb) (hn : s.bitlen ≠ 0xFFFFFFFFFFFFFFF8#64) :
    s.countByte.bitlen.toNat = s.bitlen.toNat + 8 := by
  have h8 := hs.bits_of_computing (by rw [hp]; rfl)
  have hne : s.bitlen.toNat ≠ 0xFFFFFFFFFFFFFFF8 := fun h => hn (BitVec.eq_of_toNat_eq h)
  rw [State.countByte_bitlen, BitVec.toNat_add, BitVec.toNat_ofNat]
  omega

/-- R80, R171: a held or refused command changes no register, and fault entry records a cause. -/
theorem Declines.inv (h : Declines s t) : t.Inv := by
  cases h with
  | held hb => exact hs
  | refused hf => exact hs.respond _ _
  | raised hk hb hf hx => exact (inv_raise hk hx).respond _ _

/-- R40 (d), R167: the partial-block assertion cannot fail. -/
theorem State.Inv.not_partialBlock : ¬ PartialBlock s t :=
  fun ⟨hp, hf, _⟩ => hf (hs.block_of_inBlock (by rw [hp]; rfl)).1

/-- The rule of every instruction keeps the invariant. -/
theorem Performs.inv {i : Instr} (h : Performs i s t) : t.Inv := by
  have computing {p : Phase} (hp : s.ph = p) (hc : p.computing = true) : s.ph.computing = true := hp ▸ hc
  have inBlock {p : Phase} (hp : s.ph = p) (hc : p.inBlock = true) : s.ph.inBlock = true := hp ▸ hc
  cases h with
  | init hb => exact ⟨rfl, show 0 = 0 / 8 % 64 by rfl, fun _ _ => rfl, by simp, by simp⟩
  | wrbOpen hp hk hn hf =>
    have hfill := hs.fill_of_absorb hp
    have h8 := hs.bits_of_computing (computing hp rfl)
    have hcount := hs.toNat_bitlen_countByte hp hn
    refine State.Inv.respond ?_ _ _
    refine hs.advance (computing hp rfl) (computing hp rfl) ?_ ?_ ?_
    · simp [Phase.hasIndex, hp, hk]
    · simp only [State.phaseInv, State.store_ph, State.countByte_ph, hp, State.store_fill_val, State.countByte_fill,
        State.store_bitlen, hcount]
      omega
    · rw [State.store_bitlen, hcount]
      omega
  | wrbFull hp hk hn hf =>
    have hfill := hs.fill_of_absorb hp
    have h8 := hs.bits_of_computing (computing hp rfl)
    have hcount := hs.toNat_bitlen_countByte hp hn
    refine State.Inv.respond ?_ _ _
    exact hs.startBlock (u := s.countByte) (computing hp rfl) hf (fun _ => by rw [hcount]; omega)
      (by rw [hcount]; omega)
  | fin hp hk =>
    refine State.Inv.respond ?_ _ _
    exact hs.advance (computing hp rfl) rfl hk (hs.fill_of_absorb hp) (hs.bits_of_computing (computing hp rfl))
  | rdw hp => exact hs.respond _ _
  | rdb hp => exact hs.respond _ _
  | rds => exact hs.respond _ _
  | padmOpen hp hk hf =>
    exact hs.advance (computing hp rfl) rfl hk (show _ + 1 ≤ 63 by omega) (hs.bits_of_computing (computing hp rfl))
  | padmFull hp hk hf =>
    exact hs.startBlock (computing hp rfl) hf (by simp) (hs.bits_of_computing (computing hp rfl))
  | padzEnd hp hk hf =>
    exact hs.advance (computing hp rfl) rfl (Nat.zero_lt_succ _) hf (hs.bits_of_computing (computing hp rfl))
  | padzOpen hp hk hf hne =>
    refine hs.advance (computing hp rfl) (computing hp rfl) ?_ ?_ (hs.bits_of_computing (computing hp rfl))
    · simp [Phase.hasIndex, hp, hk]
    · simp only [State.phaseInv, State.store_ph, hp, State.store_fill_val]
      omega
  | padzFull hp hk hf =>
    exact hs.startBlock (computing hp rfl) hf (by simp) (hs.bits_of_computing (computing hp rfl))
  | padlOpen hp hk hf =>
    obtain ⟨hfill, -⟩ := hs.fill_of_padl hp
    refine hs.advance (computing hp rfl) (computing hp rfl) ?_ ?_ (hs.bits_of_computing (computing hp rfl))
    · simp only [Phase.hasIndex, State.setIdx_ph, State.store_ph, hp, State.setIdx_idx]
      omega
    · simp only [State.phaseInv, State.setIdx_ph, State.store_ph, hp, State.setIdx_idx,
        State.setIdx_fill, State.store_fill_val]
      omega
  | padlFull hp hk hf =>
    exact hs.startBlock (computing hp rfl) hf (by simp) (hs.bits_of_computing (computing hp rfl))
  | ldwNext hp hk hi =>
    refine hs.advanceInBlock (inBlock hp rfl) (inBlock hp rfl) ?_
    simp only [Phase.hasIndex, State.setIdx_ph, State.setW_ph, hp, State.setIdx_idx]
    omega
  | ldwLast hp hk hi => exact hs.advanceInBlock (inBlock hp rfl) rfl (show 16 ≤ 16 from le_rfl)
  | expNext hp hk hi =>
    refine hs.advanceInBlock (inBlock hp rfl) (inBlock hp rfl) ?_
    simp only [Phase.hasIndex, State.setIdx_ph, State.setW_ph, hp, State.setIdx_idx]
    omega
  | expLast hp hi => exact hs.advanceInBlock (inBlock hp rfl) rfl rfl
  | lds hp hk => exact hs.advanceInBlock (inBlock hp rfl) rfl trivial
  | rndNext hp hi => exact hs.advanceInBlock (inBlock hp rfl) (inBlock hp rfl) (by simp [Phase.hasIndex, hp])
  | rndLast hp hi => exact hs.advanceInBlock (inBlock hp rfl) rfl rfl
  | chn hp hk =>
    obtain ⟨-, hblock⟩ := hs.block_of_inBlock (inBlock hp rfl)
    have h8 := hs.bits_of_computing (computing hp rfl)
    cases hr : s.rsm
    · exact hs.advance (computing hp rfl) rfl rfl (hblock hr).symm h8
    · exact hs.advance (computing hp rfl) rfl rfl (Nat.zero_le _) h8
    · exact hs.advance (computing hp rfl) rfl rfl rfl h8
  | latch hp hk =>
    have hblock := hs.phase
    simp only [State.phaseInv, hp] at hblock
    have herr := hs.err_of_ne_fault (by simp [hp])
    exact ⟨(seqLegal_iff_hasIndex _).2 hk, hblock, fun _ _ => hs.bits_of_computing (computing hp rfl), by simp,
      by simp [herr]⟩

end

/-! ## One step from a state that meets the invariant -/

/-- R190: a reset event leads to a state that meets the invariant, whatever it leaves in the other registers. -/
theorem inv_resetEvent (s : State) : s.resetEvent.Inv :=
  ⟨rfl, trivial, fun h => absurd rfl h, by simp, by simp⟩

/-- Everything a step can do from a state that meets the invariant. -/
theorem State.Inv.step_next {s t : State} (hs : s.Inv) (h : step s = .next t) :
    (∃ r, s.turns = .reset :: r ∧ t = { s with turns := r }.resetEvent) ∨
    ∃ u, SameCore s u ∧ u.Inv ∧ (t = u ∨ Declines u t ∨ ∃ i, Performs i u t) := by
  obtain hreset | ⟨u, hu, hm⟩ := Machine.step_next h
  · exact .inl hreset
  · have hinv := hs.of_sameCore hu
    have run {i : Instr} (he : exec i u = .next t) : Declines u t ∨ ∃ i, Performs i u t := by
      obtain hd | hpartial | hp := exec_next he
      · exact .inl hd
      · exact absurd hpartial hinv.not_partialBlock
      · exact .inr ⟨i, hp⟩
    refine .inr ⟨u, hu, hinv, ?_⟩
    cases hm with
    | quiet ht => exact .inl ht
    | illegal he => exact .inr (.inl (declines_of_acceptIllegal he))
    | command _ _ he => exact .inr (run he)
    | micro _ he => exact .inr (run he)

/-- Settles O36: a reset event, a declined command and the rule of every instruction each keep the invariant, and the
partial-block assertion cannot fail under it. -/
theorem everyStepKeepsInvariant : Obligations.EveryStepKeepsInvariant := by
  intro s t hs h
  obtain ⟨r, -, rfl⟩ | ⟨u, -, hu, rfl | hd | ⟨i, hp⟩⟩ := hs.step_next h
  · exact inv_resetEvent _
  · exact hu
  · exact hd.inv hu
  · exact hp.inv hu

/-- Settles O37: in IDLE the invariant asks nothing of the registers that R38 leaves unspecified. -/
theorem invariantAtReset : Obligations.InvariantAtReset :=
  ⟨rfl, trivial, fun h => absurd rfl h, by decide, by decide⟩

/-- Settles O35, by the definition of `State.reset`. -/
theorem resetStateControl : Obligations.ResetStateControl := ⟨rfl, rfl, rfl, rfl, rfl, rfl⟩

/-! ## The recorded cause (R167) -/

/-- A declined command records no INTERNAL_INVARIANT. -/
theorem Declines.internalInvariant_recorded {s t : State} (h : Declines s t) (he : t.err = .internalInvariant) :
    s.err = .internalInvariant := by
  cases h with
  | held => exact he
  | refused => exact he
  | raised hk hb hf hx hi =>
    rw [State.raiseCommand_err] at he
    split at he
    · exact absurd he hi
    · exact he

/-- The rules of the instructions record no cause. -/
theorem Performs.err_eq {i : Instr} {s t : State} (h : Performs i s t) : t.err = s.err ∨ t.err = .none := by
  cases h with
  | init => exact .inr rfl
  | _ => exact .inl (by simp)

/-- Settles O38: under the invariant only a declined command writes a cause, and never INTERNAL_INVARIANT. -/
theorem partialBlockNeverFires : Obligations.PartialBlockNeverFires := by
  intro s t hs h he
  obtain ⟨r, -, rfl⟩ | ⟨u, ⟨p, r, rfl⟩, -, rfl | hd | ⟨i, hp⟩⟩ := hs.step_next h
  · cases he
  · exact he
  · exact hd.internalInvariant_recorded he
  · obtain hsame | hnone := hp.err_eq
    · exact hsame.symm.trans he
    · rw [hnone] at he
      cases he

/-! ## The phase graph (R39) -/

theorem Phase.self_mem_next (p : Phase) : p ∈ p.next := by
  cases p <;> decide

theorem Phase.fault_mem_next {p : Phase} (hb : p.busy = false) : .fault ∈ p.next := by
  revert hb
  cases p <;> decide

theorem Phase.absorb_mem_next {p : Phase} (hb : p.busy = false) : .absorb ∈ p.next := by
  revert hb
  cases p <;> decide

theorem Resume.phase_mem_next (r : Resume) : r.phase ∈ Phase.chn.next := by
  cases r <;> decide

theorem Declines.ph_mem_next {s t : State} (h : Declines s t) : t.ph ∈ s.ph.next := by
  cases h with
  | held => exact s.ph.self_mem_next
  | refused => exact s.ph.self_mem_next
  | raised hk hb => exact Phase.fault_mem_next hb

/-- The rule of an instruction leaves the phase or leads to a phase that the graph names. -/
theorem Performs.ph_mem_next {i : Instr} {s t : State} (h : Performs i s t) : t.ph ∈ s.ph.next := by
  cases h with
  | init hb => exact Phase.absorb_mem_next hb
  | chn hp => simpa [hp] using s.rsm.phase_mem_next
  | wrbOpen | rdw | rdb | rds | padzOpen | padlOpen | ldwNext | expNext | rndNext =>
    simpa using s.ph.self_mem_next
  | wrbFull hp | fin hp | padmOpen hp | padmFull hp | padzEnd hp | padzFull hp | padlFull hp | ldwLast hp
  | expLast hp | lds hp | rndLast hp | latch hp => simp [hp, Phase.next]

/-- Settles O40: R39's graph has an edge for a declined command and for each branch of each rule. -/
theorem phaseFollowsTheGraph : Obligations.PhaseFollowsTheGraph := by
  intro s t hs h
  obtain ⟨r, hr, rfl⟩ | ⟨u, ⟨p, r, rfl⟩, -, rfl | hd | ⟨i, hp⟩⟩ := hs.step_next h
  · exact .inr ⟨rfl, r, hr⟩
  · exact .inl s.ph.self_mem_next
  · exact .inl hd.ph_mem_next
  · exact .inl hp.ph_mem_next

end Sys2Proof.Machine
end

section
/-! PROOFS. The write sets (spec 10_state.md R35), and what they say of DIGEST (R25, R193) and BITLEN (R27). -/

namespace Sys2Proof.Machine

/-! ## Frames -/

theorem Reg.same_refl (r : Reg) (s : State) : r.same s s := by
  cases r <;> simp [Reg.same]

theorem Reg.same_raise {r : Reg} (hr : r ∉ faultWrites) (s : State) (x : ErrCode) : r.same s (s.raise x) := by
  cases r <;> simp [Reg.same, faultWrites] at hr ⊢

theorem Resume.phase_ne_fault (r : Resume) : r.phase ≠ .fault := by
  cases r <;> decide

/-- A declined command writes no register, or enters a fault, which writes its own row. -/
theorem Declines.frame {s t : State} (h : Declines s t) :
    (∀ r : Reg, r.same s t) ∨ (s.ph ≠ .fault ∧ t.ph = .fault ∧ ∀ r : Reg, r ∉ faultWrites → r.same s t) := by
  cases h with
  | held => exact .inl fun r => r.same_refl s
  | refused => exact .inl fun r => r.same_refl s
  | raised hk hb hf => exact .inr ⟨hf, rfl, fun r hr => r.same_raise hr s _⟩

theorem PartialBlock.frame {s t : State} (h : PartialBlock s t) :
    s.ph ≠ .fault ∧ t.ph = .fault ∧ ∀ r : Reg, r ∉ faultWrites → r.same s t := by
  obtain ⟨hp, -, rfl⟩ := h
  exact ⟨by simp [hp], rfl, fun r hr => r.same_raise hr s _⟩

/-- R35: each branch of the rule of an instruction, compared with the row of the instruction column by column. -/
theorem Performs.frame {i : Instr} {s t : State} (h : Performs i s t) {r : Reg} (hr : r ∉ writesOf i) : r.same s t := by
  cases h <;> cases r <;> simp [Reg.same, writesOf] at hr ⊢

/-- The rule of an instruction enters no fault. -/
theorem Performs.ph_ne_fault {i : Instr} {s t : State} (h : Performs i s t) (hs : s.ph ≠ .fault) : t.ph ≠ .fault := by
  cases h with
  | chn => exact s.rsm.phase_ne_fault
  | wrbOpen | rdw | rdb | rds | padzOpen | padlOpen | ldwNext | expNext | rndNext => simpa using hs
  | _ => exact nofun

/-- Settles O29: a fault is entered by a declined command and by the partial-block assertion only, so that every other
outcome is held to the row of the instruction. -/
theorem writeSetsOfTheTable : Obligations.WriteSetsOfTheTable := by
  intro i s t h
  obtain hd | hpartial | hp := exec_next h
  · obtain hsame | ⟨hs, ht, hframe⟩ := hd.frame
    · exact ⟨fun _ r _ => hsame r, fun _ r _ => hsame r⟩
    · exact ⟨fun _ => hframe, fun hno => absurd ⟨ht, hs⟩ hno⟩
  · obtain ⟨hs, ht, hframe⟩ := hpartial.frame
    exact ⟨fun _ => hframe, fun hno => absurd ⟨ht, hs⟩ hno⟩
  · exact ⟨fun ⟨ht, hs⟩ => absurd ht (hp.ph_ne_fault hs), fun _ _ hr => hp.frame hr⟩

/-- A register outside both rows keeps its content. -/
theorem exec_frame {i : Instr} {s t : State} (h : exec i s = .next t) {r : Reg} (hf : r ∉ faultWrites)
    (hr : r ∉ writesOf i) : r.same s t := by
  obtain ⟨hfault, hrow⟩ := writeSetsOfTheTable i s t h
  by_cases hc : t.ph = .fault ∧ s.ph ≠ .fault
  · exact hfault hc r hf
  · exact hrow hc r hr

theorem acceptIllegal_frame {s t : State} (h : s.acceptIllegal = .next t) {r : Reg} (hf : r ∉ faultWrites) :
    r.same s t := by
  obtain hsame | ⟨-, -, hframe⟩ := (declines_of_acceptIllegal h).frame
  · exact hsame r
  · exact hframe r hf

/-! ## DIGEST -/

theorem eq_latch_of_digest_mem_writesOf {i : Instr} (h : Reg.digest ∈ writesOf i) : i = .latch := by
  revert h
  cases i <;> simp [writesOf]

/-- R25: DIGEST stands in the row of LATCH only. -/
theorem exec_digest {i : Instr} {s t : State} (h : exec i s = .next t) :
    t.digest = s.digest ∨ (s.ph = .latch ∧ t.ph = .done ∧ t.dvalid = true ∧ t.digest = digestBits s.h) := by
  by_cases hw : Reg.digest ∈ writesOf i
  · obtain rfl := eq_latch_of_digest_mem_writesOf hw
    obtain ⟨hp, -, rfl⟩ := execLatch_next h
    exact .inr ⟨hp, rfl, rfl, rfl⟩
  · exact .inl (exec_frame (r := .digest) h (by decide) hw)

/-- Settles O31: a step runs one instruction at most, and among them LATCH alone has DIGEST in its row. -/
theorem digestWrittenByLatchOnly : Obligations.DigestWrittenByLatchOnly := by
  intro s t h
  obtain ⟨r, hr, -⟩ | ⟨u, ⟨p, r, rfl⟩, hm⟩ := step_next h
  · exact .inr (.inr ⟨r, hr⟩)
  · cases hm with
    | quiet ht => exact .inl (by rw [ht])
    | illegal he => exact .inl (acceptIllegal_frame (r := .digest) he (by decide))
    | command _ _ he => exact (exec_digest he).imp_right .inl
    | micro _ he => exact (exec_digest he).imp_right .inl

/-! ## BITLEN -/

/-- R72: the word of INIT. -/
theorem eq_of_decodeCommand_init {w : CmdWord} (h : decodeCommand w = .ok .init) : w = 0x0000#16 := by
  unfold decodeCommand at h
  split_ifs at h with hw
  · rwa [show 0xFFFF#16 = BitVec.allOnes 16 from rfl, BitVec.and_allOnes] at hw
  all_goals cases h

/-- R72: a word of the row of WRB has OP = 1, Z = 0 and the byte as its argument. -/
theorem append_setWidth_of_and_eq {w : CmdWord} (h : w &&& 0xFF00#16 = 0x1000#16) : 0x10#8 ++ w.setWidth 8 = w := by
  have hhigh : w.extractLsb' 8 8 = 0x10#8 := by
    have hbyte := congrArg (BitVec.extractLsb' 8 8) h
    have hmask : BitVec.extractLsb' 8 8 0xFF00#16 = BitVec.allOnes 8 := rfl
    rwa [BitVec.extractLsb'_and, hmask, BitVec.and_allOnes] at hbyte
  rw [← hhigh]
  ext k hk
  grind

theorem eq_of_decodeCommand_wrb {w : CmdWord} {d : Byte} (h : decodeCommand w = .ok (.wrb d)) : w = 0x10#8 ++ d := by
  unfold decodeCommand at h
  split_ifs at h with _ hw
  · cases h
  · cases h
    exact (append_setWidth_of_and_eq hw).symm
  all_goals cases h

theorem eq_init_or_wrb_of_bitlen_mem_writesOf {i : Instr} (h : Reg.bitlen ∈ writesOf i) :
    i = .init ∨ ∃ d, i = .wrb d := by
  revert h
  cases i <;> simp [writesOf]

/-- R27: a byte that is not accepted is not counted. -/
theorem OutOfPhase.bitlen_eq {legal : Phase → Bool} {s t : State} (h : OutOfPhase legal s t) : t.bitlen = s.bitlen := by
  obtain ⟨-, ⟨-, rfl⟩ | ⟨-, rfl⟩ | ⟨-, -, rfl⟩⟩ := h <;> rfl

/-- R27, R93: an accepted byte adds 8, and the invariant keeps the sum from wrapping. -/
theorem execWrb_bitlen {s t : State} {d : Byte} (hs : s.Inv) (h : exec (.wrb d) s = .next t) :
    t.bitlen = s.bitlen ∨ (s.ph = .absorb ∧ t.bitlen.toNat = s.bitlen.toNat + 8) := by
  obtain ⟨-, ⟨-, -, rfl⟩ | ⟨hp, hn, -, rfl⟩ | ⟨hp, hn, -, rfl⟩ | hout⟩ := execWrb_next h
  · exact .inl rfl
  · exact .inr ⟨hp, hs.toNat_bitlen_countByte hp hn⟩
  · exact .inr ⟨hp, hs.toNat_bitlen_countByte hp hn⟩
  · exact .inl hout.bitlen_eq

/-- R27, R92. -/
theorem execInit_bitlen {s t : State} (h : exec .init s = .next t) :
    t.bitlen = s.bitlen ∨ (s.ph.busy = false ∧ t.ph = .absorb ∧ t.bitlen = 0#64) := by
  obtain ⟨-, ⟨-, rfl⟩ | ⟨hb, rfl⟩⟩ := execInit_next h
  · exact .inl rfl
  · exact .inr ⟨hb, rfl, rfl⟩

/-- BITLEN stands in the rows of INIT and WRB only. -/
theorem exec_bitlen {i : Instr} {s t : State} (hs : s.Inv) (h : exec i s = .next t) :
    t.bitlen = s.bitlen ∨ (∃ d, i = .wrb d ∧ s.ph = .absorb ∧ t.bitlen.toNat = s.bitlen.toNat + 8) ∨
      (i = .init ∧ s.ph.busy = false ∧ t.ph = .absorb ∧ t.bitlen = 0#64) := by
  by_cases hw : Reg.bitlen ∈ writesOf i
  · obtain rfl | ⟨d, rfl⟩ := eq_init_or_wrb_of_bitlen_mem_writesOf hw
    · exact (execInit_bitlen h).imp_right fun hinit => .inr ⟨rfl, hinit⟩
    · exact (execWrb_bitlen hs h).imp_right fun hwrb => .inl ⟨d, rfl, hwrb⟩
  · exact .inl (exec_frame (r := .bitlen) h (by decide) hw)

/-- Settles O32: the instructions that write BITLEN are commands, so that a step runs them for the word delivered. -/
theorem bitlenCountsTheMessage : Obligations.BitlenCountsTheMessage := by
  intro s t hs h
  obtain ⟨r, hr, -⟩ | ⟨u, hu, hm⟩ := step_next h
  · exact .inr (.inr (.inr ⟨r, hr⟩))
  · have hinv := hs.of_sameCore hu
    obtain ⟨p, r, rfl⟩ := hu
    cases hm with
    | quiet ht => exact .inl (by rw [ht])
    | illegal he => exact .inl (acceptIllegal_frame (r := .bitlen) he (by decide))
    | command hw hd he =>
      obtain hsame | ⟨d, rfl, hp, h8⟩ | ⟨rfl, hb, hp, h0⟩ := exec_bitlen hinv he
      · exact .inl hsame
      · exact .inr (.inl ⟨hp, h8, d, _, eq_of_decodeCommand_wrb hd ▸ hw⟩)
      · exact .inr (.inr (.inl ⟨hb, hp, h0, _, eq_of_decodeCommand_init hd ▸ hw⟩))
    | micro hi he =>
      obtain hsame | ⟨d, rfl, -⟩ | ⟨rfl, -⟩ := exec_bitlen hinv he
      · exact .inl hsame
      · cases hi
      · cases hi

end Sys2Proof.Machine
end

section
/-! PROOFS. Progress (spec 10_state.md R40, 30_encoding.md R77, 70_reset_and_hazards.md R194): from a state that meets
the invariant none of the model's own stops happens. -/

namespace Sys2Proof.Machine

/-- R80: in a state of the core a command is answered with a next state if its own effect is, where it is legal. -/
theorem accept_has_next {s : State} {legal : Phase → Bool} {x : ErrCode} {op : Outcome} (hs : s.seqLegal = true)
    (hop : legal s.ph = true → ∃ t, op = .next t) : ∃ t, s.accept legal x op = .next t := by
  cases hl : legal s.ph
  · cases hb : s.ph.busy
    · by_cases hf : s.ph = .fault
      · exact ⟨_, accept_refused hs hl hf⟩
      · exact ⟨_, accept_raise hs hl hb hf⟩
    · exact ⟨_, accept_held hs hl hb⟩
  · rw [accept_legal hs hl]
    exact hop hl

/-- R76: a micro-operation that is selected is performed. -/
theorem perform_has_next {s : State} {i : Instr} {op : Outcome} (hsel : s.selects i = true)
    (hop : ∃ t, op = .next t) : ∃ t, s.perform i op = .next t := by
  rwa [perform_selected hsel]

/-- R95: a push is performed where its precondition holds. -/
theorem pushOr_has_next {s : State} {v : Byte} {r : Resume} {closed stay : State → State} (hf : s.fill.val < 64) :
    ∃ t, s.pushOr v r closed stay = .next t := by
  obtain hopen | hfull := Nat.lt_or_eq_of_le (Nat.le_of_lt_succ hf)
  · exact ⟨_, pushOr_open hopen⟩
  · exact ⟨_, pushOr_completes hfull⟩

/-- R72: the rows of the command word are commands. -/
theorem isCommand_of_decodeCommand {w : CmdWord} {i : Instr} (h : decodeCommand w = .ok i) : i.isCommand = true := by
  unfold decodeCommand at h
  split_ifs at h <;> cases h <;> rfl

/-- Under the invariant every command, and every micro-operation that is selected, is answered with a next state. -/
theorem State.Inv.exec_has_next {s : State} (hs : s.Inv) {i : Instr} (hi : i.isCommand = true ∨ s.selects i = true) :
    ∃ t, exec i s = .next t := by
  cases i with
  | init | fin | rdw | rdb | rds =>
    simp only [exec, execInit, execFin, execRdw, execRdb, execRds]
    exact accept_has_next hs.seq fun _ => ⟨_, rfl⟩
  | wrb d =>
    simp only [exec, execWrb]
    refine accept_has_next hs.seq fun hl => ?_
    have hfill := hs.fill_of_absorb (by simpa using hl)
    split
    · exact ⟨_, rfl⟩
    · exact pushOr_has_next (show s.fill.val < 64 by omega)
  | padm =>
    have hsel := hi.resolve_left nofun
    have hfill := hs.fill_of_padm ((selects_padm s).1 hsel).1
    exact perform_has_next hsel (pushOr_has_next (by omega))
  | padz =>
    have hsel := hi.resolve_left nofun
    have hfill := hs.fill_of_padz ((selects_padz s).1 hsel).1
    refine perform_has_next hsel ?_
    split
    · exact ⟨_, rfl⟩
    · exact pushOr_has_next (by omega)
  | padl k =>
    have hsel := hi.resolve_left nofun
    obtain ⟨hfill, hk⟩ := hs.fill_of_padl ((selects_padl s k).1 hsel).1
    exact perform_has_next hsel (pushOr_has_next (by omega))
  | ldw k =>
    refine perform_has_next (hi.resolve_left nofun) ?_
    split <;> exact ⟨_, rfl⟩
  | exp | lds | rnd | chn | latch => exact perform_has_next (hi.resolve_left nofun) ⟨_, rfl⟩

/-- Settles O39: a step from a state of the core is a reset event, an illegal word, nothing, or one instruction that is
a command or selected. -/
theorem everyStepHasNext : Obligations.EveryStepHasNext := by
  intro s hs
  obtain ⟨r, -, h⟩ | ⟨p, r, i, h, hi⟩ | ⟨p, r, -, h⟩ | ⟨p, r, -, -, h⟩ | ⟨hl, -⟩ := step_cases s
  · exact ⟨_, h⟩
  · rw [h]
    refine (hs.of_sameCore ⟨p, r, rfl⟩).exec_has_next ?_
    obtain ⟨-, hsel⟩ | ⟨w, -, hd⟩ := hi
    · exact .inr hsel
    · exact .inl (isCommand_of_decodeCommand hd)
  · rw [h]
    exact accept_has_next (hs.of_sameCore ⟨p, r, rfl⟩).seq nofun
  · exact ⟨_, h⟩
  · rw [hs.seq] at hl
    cases hl

end Sys2Proof.Machine
end

section
/-! PROOFS. Two runs side by side: first for any relation of states, then for states that agree on the live registers
(spec 10_state.md R40 (k), 20_memory.md R59, 60_exceptions.md R161). -/

namespace Sys2Proof.Machine

/-! ## Outcomes that match -/

/-- Whenever the first outcome is a next state, so is the second, and the two states are related. -/
def Matched (R : State → State → Prop) (o o' : Outcome) : Prop := ∀ t, o = .next t → ∃ t', o' = .next t' ∧ R t t'

section
variable {R : State → State → Prop} {s s' : State}

theorem matched_next {t t' : State} (h : R t t') : Matched R (.next t) (.next t') :=
  fun _ ht => ⟨t', rfl, by cases ht; exact h⟩

theorem matched_fault {x : Fault} {o : Outcome} : Matched R (.fault x) o := fun _ h => by cases h

theorem seqWord_congr (hp : s.ph = s'.ph) (hk : s.idx = s'.idx) : s.seqWord = s'.seqWord := by
  rw [State.seqWord, State.seqWord, hp, hk]

theorem seqLegal_congr (hp : s.ph = s'.ph) (hk : s.idx = s'.idx) : s.seqLegal = s'.seqLegal := by
  rw [State.seqLegal, State.seqLegal, seqWord_congr hp hk, hp, hk]

theorem selects_congr (hp : s.ph = s'.ph) (hk : s.idx = s'.idx) (i : Instr) : s.selects i = s'.selects i := by
  rw [State.selects, State.selects, seqWord_congr hp hk]

/-- R80: acceptance goes the same way in two states with the same PH and IDX. -/
theorem accept_matched {legal : Phase → Bool} {x : ErrCode} {op op' : Outcome} (hp : s.ph = s'.ph)
    (hk : s.idx = s'.idx) (hheld : R s s') (hrefuse : R s.refuseInFault s'.refuseInFault)
    (hraise : R (s.raiseCommand x) (s'.raiseCommand x)) (hop : legal s.ph = true → Matched R op op') :
    Matched R (s.accept legal x op) (s'.accept legal x op') := by
  intro t ht
  obtain ⟨hs, hcase⟩ := accept_next ht
  have hs' : s'.seqLegal = true := seqLegal_congr hp hk ▸ hs
  obtain ⟨hl, ho⟩ | ⟨hl, hb, rfl⟩ | ⟨hl, hf, rfl⟩ | ⟨hl, hb, hf, rfl⟩ := hcase
  · rw [accept_legal hs' (hp ▸ hl)]
    exact hop hl t ho
  · exact ⟨s', accept_held hs' (hp ▸ hl) (hp ▸ hb), hheld⟩
  · exact ⟨_, accept_refused hs' (hp ▸ hl) (hp ▸ hf), hrefuse⟩
  · exact ⟨_, accept_raise hs' (hp ▸ hl) (hp ▸ hb) (hp ▸ hf), hraise⟩

/-- R76: two states with the same PH and IDX select the same micro-operation. -/
theorem perform_matched {i : Instr} {op op' : Outcome} (hp : s.ph = s'.ph) (hk : s.idx = s'.idx)
    (hop : s.selects i = true → Matched R op op') : Matched R (s.perform i op) (s'.perform i op') := by
  intro t ht
  obtain ⟨hsel, ho⟩ := perform_next ht
  rw [perform_selected (selects_congr hp hk i ▸ hsel)]
  exact hop hsel t ho

/-- R95: a push completes the block in both states or in neither. -/
theorem pushOr_matched {v : Byte} {r : Resume} {closed stay closed' stay' : State → State} (hf : s.fill = s'.fill)
    (hopen : ∀ h h', R (stay (s.store v h)) (stay' (s'.store v h')))
    (hfull : ∀ h h', s.fill.val = 63 →
      R (closed ((s.store v h).startBlock r)) (closed' ((s'.store v h').startBlock r))) :
    Matched R (s.pushOr v r closed stay) (s'.pushOr v r closed' stay') := by
  intro t ht
  obtain ⟨hlt, rfl⟩ | ⟨heq, rfl⟩ := pushOr_next ht
  · have h64 : s.fill.val < 64 := Nat.lt_succ_of_lt hlt
    exact ⟨_, pushOr_open (hf ▸ hlt), hopen h64 (hf ▸ h64)⟩
  · have h64 : s.fill.val < 64 := Nat.lt_succ_of_le heq.le
    exact ⟨_, pushOr_completes (hf ▸ heq), hfull h64 (hf ▸ h64) heq⟩

end

/-! ## Stores that agree below an index -/

/-- The words below index `n` agree. -/
def SameBelow (n : Nat) (v v' : Vector Word 80) : Prop := ∀ i : Fin 80, i.val < n → v[i.val] = v'[i.val]

theorem SameBelow.set {v v' : Vector Word 80} {k : Fin 80} (h : SameBelow k.val v v') (x : Word) :
    SameBelow (k.val + 1) (v.set k.val x) (v'.set k.val x) := by
  intro i hi
  by_cases hik : k.val = i.val
  · simp [hik]
  · rw [Vector.getElem_set_ne _ _ hik, Vector.getElem_set_ne _ _ hik]
    exact h i (by omega)

theorem SameBelow.eq {v v' : Vector Word 80} (h : SameBelow 80 v v') : v = v' :=
  Vector.ext fun i hi => h ⟨i, hi⟩ hi

/-- R115: an expanded word reads below its own index. -/
theorem expandedWord_congr {s s' : State} (hk : s.idx = s'.idx) (h16 : 16 ≤ s.idx.val)
    (h : SameBelow s.idx.val s.w s'.w) : s.expandedWord = s'.expandedWord := by
  have read (n : Nat) (hn : 0 < n) (hle : n ≤ 16) :
      s.w[s.idx.val - n]'(by omega) = s'.w[s.idx.val - n]'(by omega) := h ⟨s.idx.val - n, by omega⟩ (by simp; omega)
  simp only [State.expandedWord, ← hk]
  rw [read 3, read 8, read 14, read 16] <;> decide

/-! ## Registers that are live while a message is open -/

/-- R40 (k), in ABSORB and the padding phases: H, BITLEN, FILL and the bytes of BUF below FILL agree. -/
def OpenSame (s s' : State) : Prop :=
  s.h = s'.h ∧ s.bitlen = s'.bitlen ∧ s.fill = s'.fill ∧ ∀ i : Fin 64, i.val < s.fill.val → s.bufByte i = s'.bufByte i

/-- ABSORB and the phases of the padding. -/
def Phase.filling (p : Phase) : Bool := decide (p ∈ [Phase.absorb, .padm, .padz, .padl])

theorem liveSame_iff_openSame {s : State} (hp : s.ph.filling = true) (s' : State) : s.liveSame s' ↔ OpenSame s s' := by
  unfold State.liveSame
  cases hq : s.ph <;> simp_all [Phase.filling, OpenSame]

theorem OpenSame.live {s s' : State} (h : OpenSame s s') (hp : s.ph.filling = true) : s.liveSame s' :=
  (liveSame_iff_openSame hp s').2 h

theorem OpenSame.store {s s' : State} (h : OpenSame s s') {v : Byte} (hf : s.fill.val < 64) (hf' : s'.fill.val < 64) :
    OpenSame (s.store v hf) (s'.store v hf') := by
  obtain ⟨hh, hb, hfill, hbuf⟩ := h
  refine ⟨hh, hb, Fin.ext (by simp [hfill]), fun i hi => ?_⟩
  simp only [State.bufByte, State.store_buf, State.store_fill_val, ← hfill] at hi ⊢
  by_cases hik : s.fill.val = i.val
  · simp [hik]
  · rw [Vector.getElem_set_ne _ _ hik, Vector.getElem_set_ne _ _ hik]
    exact hbuf i (by omega)

/-- Where the block is full, all of BUF agrees. -/
theorem OpenSame.buf_eq {s s' : State} (h : OpenSame s s') (hf : s.fill.val = 64) : s.buf = s'.buf := by
  obtain ⟨-, -, -, hbuf⟩ := h
  exact Vector.ext fun i hi => hbuf ⟨i, hi⟩ (by simpa [hf] using hi)

/-! ## States that are alike -/

section
variable {s s' : State} (h : s.alike s')
include h

theorem State.alike.outside (p : Option CmdWord) (r : List Turn) :
    State.alike { s with port := p, turns := r } { s' with port := p, turns := r } :=
  ⟨h.ph, h.idx, h.dvalid, h.err, rfl, rfl, h.responses, h.live⟩

theorem State.alike.respond (ok : Bool) (data : Word) : (s.respond ok data).alike (s'.respond ok data) :=
  ⟨h.ph, h.idx, h.dvalid, h.err, rfl, h.turns, by simp [h.responses], h.live⟩

/-- R40 (k): in FAULT no data register is live. -/
theorem State.alike.raise (x : ErrCode) : (s.raise x).alike (s'.raise x) :=
  ⟨rfl, h.idx, rfl, by simp [h.err], h.port, h.turns, h.responses, trivial⟩

theorem State.alike.refuseInFault : s.refuseInFault.alike s'.refuseInFault := by
  rw [State.refuseInFault, State.refuseInFault, h.err]
  exact h.respond _ _

/-- R36, R40 (k): after a reset event no data register is live. -/
theorem State.alike.resetEvent : s.resetEvent.alike s'.resetEvent :=
  ⟨rfl, rfl, rfl, rfl, rfl, h.turns, h.responses, trivial⟩

theorem State.alike.status_eq : s.status = s'.status := by
  rw [State.status, State.status, h.err, h.ph, h.dvalid]

theorem State.alike.openSame (hp : s.ph.filling = true) : OpenSame s s' := (liveSame_iff_openSame hp s').1 h.live

theorem State.alike.accept {legal : Phase → Bool} {x : ErrCode} {op op' : Outcome}
    (hop : legal s.ph = true → Matched State.alike op op') :
    Matched State.alike (s.accept legal x op) (s'.accept legal x op') :=
  accept_matched h.ph h.idx h h.refuseInFault ((h.raise x).respond _ _) hop

theorem State.alike.perform {i : Instr} {op op' : Outcome}
    (hop : s.selects i = true → Matched State.alike op op') :
    Matched State.alike (s.perform i op) (s'.perform i op') :=
  perform_matched h.ph h.idx hop

theorem State.alike.store (hp : s.ph.filling = true) {v : Byte} (hf : s.fill.val < 64) (hf' : s'.fill.val < 64) :
    (s.store v hf).alike (s'.store v hf') :=
  ⟨h.ph, h.idx, h.dvalid, h.err, h.port, h.turns, h.responses,
    ((h.openSame hp).store hf hf').live hp⟩

theorem State.alike.countByte (hp : s.ph.filling = true) : s.countByte.alike s'.countByte := by
  obtain ⟨hh, hb, hfill, hbuf⟩ := h.openSame hp
  have hcount : OpenSame s.countByte s'.countByte := ⟨hh, by simp [hb], hfill, hbuf⟩
  exact ⟨h.ph, h.idx, h.dvalid, h.err, h.port, h.turns, h.responses, hcount.live hp⟩

/-- In LDW with IDX = 0 all of BUF is live and no word of W. -/
theorem State.alike.startBlock (hp : s.ph.filling = true) (hf : s.fill.val = 64) (r : Resume) :
    (s.startBlock r).alike (s'.startBlock r) := by
  have hopen := h.openSame hp
  have ⟨hh, hb, hfill, _⟩ := hopen
  exact ⟨rfl, rfl, h.dvalid, h.err, h.port, h.turns, h.responses, hh, hb, rfl, hfill, hopen.buf_eq hf, nofun⟩

/-- R95: a push in a phase in which a message is open. -/
theorem State.alike.pushOr {v : Byte} {r : Resume} {closed stay : State → State} (hp : s.ph.filling = true)
    (hclosed : ∀ t t' : State, t.alike t' → (closed t).alike (closed t'))
    (hstay : ∀ t t' : State, t.ph = s.ph → t.alike t' → (stay t).alike (stay t')) :
    Matched State.alike (s.pushOr v r closed stay) (s'.pushOr v r closed stay) := by
  obtain ⟨-, -, hfill, -⟩ := h.openSame hp
  refine pushOr_matched hfill (fun hf hf' => hstay _ _ rfl (h.store hp hf hf')) fun hf hf' h63 => hclosed _ _ ?_
  exact (h.store hp hf hf').startBlock hp (by simp [h63]) r

/-! ### The instructions -/

/-- R92: INIT writes every register that is live in ABSORB. -/
theorem State.alike.openComputation : s.openComputation.alike s'.openComputation :=
  ⟨rfl, rfl, rfl, rfl, h.port, h.turns, h.responses, rfl, rfl, rfl, nofun⟩

theorem State.alike.exec_wrb (d : Byte) : Matched State.alike (exec (.wrb d) s) (exec (.wrb d) s') := by
  simp only [exec, execWrb]
  refine h.accept fun hl => ?_
  have hp : s.ph.filling = true := by
    rw [of_decide_eq_true hl]
    rfl
  obtain ⟨-, hb, -⟩ := h.openSame hp
  rw [hb]
  split
  · exact matched_next ((h.raise _).respond _ _)
  · exact (h.countByte hp).pushOr hp (fun _ _ ht => ht.respond _ _) fun _ _ _ ht => ht.respond _ _

theorem State.alike.exec_fin : Matched State.alike (exec .fin s) (exec .fin s') := by
  simp only [exec, execFin]
  refine h.accept fun hl => matched_next (State.alike.respond ?_ _ _)
  have hp : s.ph.filling = true := by
    rw [of_decide_eq_true hl]
    rfl
  exact ⟨rfl, h.idx, h.dvalid, h.err, h.port, h.turns, h.responses, h.openSame hp⟩

/-- In DONE the register DIGEST is live. -/
theorem State.alike.digest_eq (hp : s.ph = .done) : s.digest = s'.digest := by
  simpa only [State.liveSame, hp] using h.live

theorem State.alike.exec_padm : Matched State.alike (exec .padm s) (exec .padm s') := by
  refine h.perform fun hsel => ?_
  obtain ⟨hp, -⟩ := (selects_padm s).1 hsel
  refine h.pushOr (by rw [hp]; rfl) (fun _ _ ht => ht) fun t t' htp ht => ?_
  exact ⟨rfl, ht.idx, ht.dvalid, ht.err, ht.port, ht.turns, ht.responses, ht.openSame (by rw [htp, hp]; rfl)⟩

theorem State.alike.exec_padz : Matched State.alike (exec .padz s) (exec .padz s') := by
  refine h.perform fun hsel => ?_
  obtain ⟨hp, -⟩ := (selects_padz s).1 hsel
  have hopen : OpenSame s s' := h.openSame (by rw [hp]; rfl)
  have ⟨_, _, hfill, _⟩ := hopen
  rw [hfill]
  split
  · exact matched_next ⟨rfl, rfl, h.dvalid, h.err, h.port, h.turns, h.responses, hopen⟩
  · exact h.pushOr (by rw [hp]; rfl) (fun _ _ ht => ht) fun _ _ _ ht => ht

theorem State.alike.exec_padl (k : Fin 8) : Matched State.alike (exec (.padl k) s) (exec (.padl k) s') := by
  refine h.perform fun hsel => ?_
  obtain ⟨hp, -⟩ := (selects_padl s k).1 hsel
  obtain ⟨-, hb, -⟩ : OpenSame s s' := h.openSame (by rw [hp]; rfl)
  rw [hb]
  refine h.pushOr (by rw [hp]; rfl) (fun _ _ ht => ht) fun t t' htp ht => ?_
  have hq : t.ph.filling = true := by
    rw [htp, hp]
    rfl
  exact ⟨ht.ph, rfl, ht.dvalid, ht.err, ht.port, ht.turns, ht.responses, OpenSame.live (ht.openSame hq) hq⟩

theorem State.alike.exec_ldw (i : Fin 16) : Matched State.alike (exec (.ldw i) s) (exec (.ldw i) s') := by
  refine h.perform fun hsel => ?_
  obtain ⟨hp, hk⟩ := (selects_ldw s i).1 hsel
  obtain ⟨hh, hb, hr, hf, hbuf, hw⟩ := by simpa only [State.liveSame, hp] using h.live
  have hword : s.bufWord i = s'.bufWord i := by simp [State.bufWord, State.bufByte, hbuf]
  have hset : SameBelow (i.val + 1) (s.w.set i.val (s.bufWord i)) (s'.w.set i.val (s'.bufWord i)) :=
    hword ▸ SameBelow.set (k := ⟨i.val, by omega⟩) (hk ▸ hw) _
  rw [hf]
  split
  · exact matched_next (h.raise _)
  · refine matched_next ?_
    split
    next h15 =>
      have hlast : SameBelow 16 (s.w.set i.val (s.bufWord i)) (s'.w.set i.val (s'.bufWord i)) :=
        fun k hk16 => hset k (by omega)
      exact ⟨rfl, rfl, h.dvalid, h.err, h.port, h.turns, h.responses, hh, hb, hr, hlast⟩
    next =>
      refine ⟨h.ph, rfl, h.dvalid, h.err, h.port, h.turns, h.responses, ?_⟩
      simp only [State.liveSame, State.setW_ph, hp]
      exact ⟨hh, hb, hr, hf, hbuf, hset⟩

theorem State.alike.exec_exp (i : Fin 80) : Matched State.alike (exec (.exp i) s) (exec (.exp i) s') := by
  refine h.perform fun hsel => ?_
  obtain ⟨hp, rfl, h16⟩ := (selects_exp s i).1 hsel
  obtain ⟨hh, hb, hr, hw⟩ := by simpa only [State.liveSame, hp] using h.live
  have hset : SameBelow (s.idx.val + 1) (s.w.set s.idx.val s.expandedWord) (s'.w.set s.idx.val s'.expandedWord) :=
    expandedWord_congr h.idx h16 hw ▸ SameBelow.set hw _
  simp only [State.expandedWord, ← h.idx] at hset
  refine matched_next ?_
  split
  · refine ⟨h.ph, rfl, h.dvalid, h.err, h.port, h.turns, h.responses, ?_⟩
    simp only [State.liveSame, State.setW_ph, hp]
    exact ⟨hh, hb, hr, hset⟩
  · have hlast : s.idx.val + 1 = 80 := by omega
    exact ⟨rfl, rfl, h.dvalid, h.err, h.port, h.turns, h.responses, hh, hb, hr, (hlast ▸ hset).eq⟩

theorem State.alike.exec_lds : Matched State.alike (exec .lds s) (exec .lds s') := by
  refine h.perform fun hsel => ?_
  obtain ⟨hp, -⟩ := (selects_lds s).1 hsel
  obtain ⟨hh, hb, hr, hw⟩ := by simpa only [State.liveSame, hp] using h.live
  rw [hh]
  exact matched_next ⟨rfl, rfl, h.dvalid, h.err, h.port, h.turns, h.responses, rfl, hb, hr, hw, rfl, rfl, rfl, rfl, rfl⟩

theorem State.alike.exec_rnd (i : Fin 80) : Matched State.alike (exec (.rnd i) s) (exec (.rnd i) s') := by
  refine h.perform fun hsel => ?_
  obtain ⟨hp, rfl⟩ := (selects_rnd s i).1 hsel
  obtain ⟨hh, hb, hr, hw, ha, hb', hc, hd, he⟩ := by simpa only [State.liveSame, hp] using h.live
  rw [hw, ha, hb', hc, hd, he]
  refine matched_next ?_
  split
  · refine ⟨h.ph, rfl, h.dvalid, h.err, h.port, h.turns, h.responses, ?_⟩
    simp [State.liveSame, hp, hh, hb, hr]
  · exact ⟨rfl, rfl, h.dvalid, h.err, h.port, h.turns, h.responses, hh, hb, hr, rfl, rfl, rfl, rfl, rfl⟩

/-- After CHN the buffer is empty, so that none of its bytes is live where RSM leads. -/
theorem State.alike.exec_chn : Matched State.alike (exec .chn s) (exec .chn s') := by
  refine h.perform fun hsel => ?_
  obtain ⟨hp, -⟩ := (selects_chn s).1 hsel
  obtain ⟨hh, hb, hr, ha, hb', hc, hd, he⟩ := by simpa only [State.liveSame, hp] using h.live
  rw [hh, ha, hb', hc, hd, he, hr]
  refine matched_next ⟨rfl, rfl, h.dvalid, h.err, h.port, h.turns, h.responses, ?_⟩
  cases hrsm : s'.rsm
  · exact ⟨rfl, hb, rfl, nofun⟩
  · exact ⟨rfl, hb, rfl, nofun⟩
  · exact rfl

theorem State.alike.exec_latch : Matched State.alike (exec .latch s) (exec .latch s') := by
  refine h.perform fun hsel => ?_
  obtain ⟨hp, -⟩ := (selects_latch s).1 hsel
  have hh : s.h = s'.h := by simpa only [State.liveSame, hp] using h.live
  rw [hh]
  exact matched_next ⟨rfl, h.idx, rfl, h.err, h.port, h.turns, h.responses, rfl⟩

/-- An instruction run in two states that are alike: a next state is answered in both, and the two are alike. -/
theorem State.alike.exec_matched (i : Instr) : Matched State.alike (exec i s) (exec i s') := by
  cases i with
  | init => exact h.accept fun _ => matched_next (h.openComputation.respond _ _)
  | wrb d => exact h.exec_wrb d
  | fin => exact h.exec_fin
  | rdw k =>
    simp only [exec, execRdw]
    refine h.accept fun hl => ?_
    rw [h.digest_eq (of_decide_eq_true hl)]
    exact matched_next (h.respond _ _)
  | rdb j =>
    simp only [exec, execRdb]
    refine h.accept fun hl => ?_
    rw [h.digest_eq (of_decide_eq_true hl)]
    exact matched_next (h.respond _ _)
  | rds =>
    simp only [exec, execRds, h.status_eq]
    exact h.accept fun _ => matched_next (h.respond _ _)
  | padm => exact h.exec_padm
  | padz => exact h.exec_padz
  | padl k => exact h.exec_padl k
  | ldw k => exact h.exec_ldw k
  | exp k => exact h.exec_exp k
  | lds => exact h.exec_lds
  | rnd k => exact h.exec_rnd k
  | chn => exact h.exec_chn
  | latch => exact h.exec_latch

end

/-! ### The moves -/

/-- The same kind of move, in states that are alike. -/
inductive Move.alike : Move → Move → Prop
  | reset {s s'} (h : s.alike s') : Move.alike (.reset s) (.reset s')
  | execute {s s'} (i : Instr) (h : s.alike s') : Move.alike (.execute i s) (.execute i s')
  | illegal {s s'} (h : s.alike s') : Move.alike (.illegal s) (.illegal s')
  | quiet {s s'} (h : s.alike s') : Move.alike (.quiet s) (.quiet s')
  | reserved : Move.alike .reserved .reserved

section
variable {s s' : State} (h : s.alike s')
include h

theorem State.alike.coreMove : s.coreMove.alike s'.coreMove := by
  rw [State.coreMove, State.coreMove, ← seqWord_congr h.ph h.idx, ← h.ph, ← h.idx]
  split
  · split
    · exact .execute _ h
    · exact .reserved
  · split
    · exact .quiet h
    · exact .reserved

theorem State.alike.portMove (w : CmdWord) : (s.portMove w).alike (s'.portMove w) := by
  rw [State.portMove, State.portMove, ← h.ph]
  split
  · split
    · exact .execute _ h
    · exact .illegal h
  · exact h.coreMove

theorem State.alike.ownMove : s.ownMove.alike s'.ownMove := by
  rw [State.ownMove, State.ownMove, ← h.port]
  split
  · exact h.portMove _
  · exact h.coreMove

theorem State.alike.nextMove : s.nextMove.alike s'.nextMove := by
  have after (r : List Turn) : State.alike { s with turns := r } { s' with turns := r } :=
    ⟨h.ph, h.idx, h.dvalid, h.err, h.port, rfl, h.responses, h.live⟩
  rw [State.nextMove, State.nextMove, ← h.turns]
  split
  · exact .reset (after _)
  · exact (after _).coreMove
  · rw [← h.port]
    split
    · exact (h.outside _ _).ownMove
    · exact h.ownMove
  · exact h.ownMove

theorem State.alike.step_matched : Matched State.alike (step s) (step s') := by
  have hm := h.nextMove
  rw [step, step]
  generalize s.nextMove = m, s'.nextMove = m' at hm
  cases hm with
  | reset hu => exact matched_next hu.resetEvent
  | execute i hu => exact hu.exec_matched i
  | illegal hu => exact hu.accept nofun
  | quiet hu => exact matched_next hu
  | reserved => exact matched_fault

end

/-- Settles O41: two states that are alike make the same move, and each instruction leads them to alike
states. -/
theorem deadRegistersUnobservable : Obligations.DeadRegistersUnobservable :=
  fun _ _ t h ht => h.step_matched t ht

end Sys2Proof.Machine
end

section
/-! PROOFS. The indexed stores (spec 20_memory.md R50, 40_padder.md R95): which byte of BUF and which word of W an
instruction stores, if any. -/

namespace Sys2Proof.Machine

/-! ## BUF -/

/-- R95: the byte at FILL is stored and FILL grows by one, which is all that happens to BUF. -/
def StoresByte (s t : State) : Prop :=
  ∃ (v : Byte) (hf : s.fill.val < 64), t.buf = s.buf.set s.fill.val v hf ∧ t.fill.val = s.fill.val + 1

theorem bufByte_eq_of_buf_eq {s t : State} (h : t.buf = s.buf) (a : Fin 64) : t.bufByte a = s.bufByte a := by
  rw [State.bufByte, State.bufByte, h]

theorem StoresByte.bufByte_of_ne {s t : State} (h : StoresByte s t) {a : Fin 64} (ha : a.val ≠ s.fill.val) :
    t.bufByte a = s.bufByte a := by
  obtain ⟨v, hf, hbuf, -⟩ := h
  simp only [State.bufByte, hbuf, Vector.getElem_set_ne _ _ ha.symm]

theorem StoresByte.fill_ne {s t : State} (h : StoresByte s t) : t.fill ≠ s.fill := by
  obtain ⟨-, -, -, hfill⟩ := h
  exact Fin.ne_of_val_ne (by omega)

/-- The rules that store a byte are those that push one. -/
theorem Performs.buf_eq_or_storesByte {i : Instr} {s t : State} (h : Performs i s t) :
    t.buf = s.buf ∨ StoresByte s t := by
  cases h with
  | wrbOpen _ _ _ hf | padmOpen _ _ hf | padzOpen _ _ hf | padlOpen _ _ hf =>
    exact .inr ⟨_, Nat.lt_succ_of_lt hf, rfl, rfl⟩
  | wrbFull _ _ _ hf | padmFull _ _ hf | padzFull _ _ hf | padlFull _ _ hf =>
    exact .inr ⟨_, Nat.lt_succ_of_le hf.le, rfl, rfl⟩
  | _ => exact .inl (by simp)

theorem exec_buf_eq_or_storesByte {i : Instr} {s t : State} (h : exec i s = .next t) :
    t.buf = s.buf ∨ StoresByte s t := by
  obtain hd | ⟨-, -, rfl⟩ | hp := exec_next h
  · cases hd <;> exact .inl rfl
  · exact .inl rfl
  · exact hp.buf_eq_or_storesByte

theorem eq_of_buf_mem_writesOf {i : Instr} (h : Reg.buf ∈ writesOf i) :
    i = .padm ∨ i = .padz ∨ (∃ k, i = .padl k) ∨ ∃ d, i = .wrb d := by
  revert h
  cases i <;> simp [writesOf]

/-! ## W -/

/-- R114, R115: the word at IDX is stored, which is all that happens to W. -/
def StoresWord (s t : State) : Prop := ∃ v : Word, t.w = s.w.set s.idx.val v s.idx.isLt

theorem StoresWord.w_of_ne {s t : State} (h : StoresWord s t) {k : Fin 80} (hk : k ≠ s.idx) :
    t.w[k.val] = s.w[k.val] := by
  obtain ⟨v, hw⟩ := h
  simp only [hw, Vector.getElem_set_ne _ _ (Fin.val_ne_of_ne hk.symm)]

/-- The sequencer word selects LDW and EXP with IDX as their index. -/
theorem Performs.w_eq_or_storesWord {i : Instr} {s t : State} (h : Performs i s t) : t.w = s.w ∨ StoresWord s t := by
  cases h with
  | ldwNext | ldwLast | expNext | expLast => exact .inr ⟨_, rfl⟩
  | _ => exact .inl (by simp)

theorem exec_w_eq_or_storesWord {i : Instr} {s t : State} (h : exec i s = .next t) : t.w = s.w ∨ StoresWord s t := by
  obtain hd | ⟨-, -, rfl⟩ | hp := exec_next h
  · cases hd <;> exact .inl rfl
  · exact .inl rfl
  · exact hp.w_eq_or_storesWord

theorem eq_of_w_mem_writesOf {i : Instr} (h : Reg.w ∈ writesOf i) : (∃ k, i = .ldw k) ∨ ∃ k, i = .exp k := by
  revert h
  cases i <;> simp [writesOf]

/-- Settles O30: a byte is stored only by a push, at FILL, which moves FILL, and a word only at IDX; the columns of BUF
and W in R35's table name the instructions that store. -/
theorem indexedStoresFrame : Obligations.IndexedStoresFrame := by
  intro i s t h
  have hbuf := exec_buf_eq_or_storesByte h
  refine ⟨fun a ha => ?_, fun hfill => ?_, ?_, fun k hk => ?_, ?_⟩
  · exact hbuf.elim (bufByte_eq_of_buf_eq · a) (·.bufByte_of_ne ha)
  · exact bufByte_eq_of_buf_eq (hbuf.resolve_right (·.fill_ne hfill))
  · by_cases hrow : Reg.buf ∈ writesOf i
    · exact .inl (eq_of_buf_mem_writesOf hrow)
    · exact .inr (bufByte_eq_of_buf_eq (exec_frame (r := .buf) h (by decide) hrow))
  · exact (exec_w_eq_or_storesWord h).elim (fun hw => by rw [hw]) (·.w_of_ne hk)
  · by_cases hrow : Reg.w ∈ writesOf i
    · exact .inl (eq_of_w_mem_writesOf hrow)
    · exact .inr (exec_frame (r := .w) h (by decide) hrow)

end Sys2Proof.Machine
end

section
/-! PROOFS. The encoding (spec 30_encoding.md R72, R75, R76, R77): the masks of the opcode table as arithmetic, and the
decoder and the encoder as inverses of each other. -/

namespace Sys2Proof.Machine

/-! ## Masks as arithmetic -/

/-- The bits above position `n`, compared with a field, are a quotient. -/
theorem and_highMask_eq_iff {m n : Nat} (w : BitVec (m + n)) (hi : BitVec m) :
    w &&& (BitVec.allOnes m ++ 0#n) = hi ++ 0#n ↔ w.toNat / 2 ^ n = hi.toNat := by
  have hmask : w &&& (BitVec.allOnes m ++ 0#n) = w.extractLsb' n m ++ 0#n := by
    ext k hk
    grind
  have hhigh : (w.extractLsb' n m).toNat = w.toNat / 2 ^ n := by
    have hlt : w.toNat / 2 ^ n < 2 ^ m := Nat.div_lt_of_lt_mul (w.isLt.trans_eq (Nat.pow_add' ..))
    rw [BitVec.extractLsb'_toNat, Nat.shiftRight_eq_div_pow, Nat.mod_eq_of_lt hlt]
  rw [hmask, ← hhigh, BitVec.toNat_inj]
  constructor
  · intro h
    have := congrArg (BitVec.extractLsb' n m) h
    simpa [BitVec.extractLsb'_append_eq_left] using this
  · rintro rfl
    rfl

/-- The bits below position `n` are a remainder. -/
theorem toNat_and_lowMask {m n : Nat} (w : BitVec (m + n)) :
    (w &&& (0#m ++ BitVec.allOnes n)).toNat = w.toNat % 2 ^ n := by
  simp [BitVec.toNat_append, Nat.and_two_pow_sub_one_eq_mod]

/-- A word is its high field and its low field side by side. -/
theorem append_ofNat_mod {m n : Nat} {w : BitVec (m + n)} {hi : BitVec m} (h : w.toNat / 2 ^ n = hi.toNat) :
    hi ++ BitVec.ofNat n (w.toNat % 2 ^ n) = w := by
  apply BitVec.eq_of_toNat_eq
  rw [toNat_append_eq_mul_add, BitVec.toNat_ofNat, Nat.mod_mod, ← h, Nat.div_add_mod']

/-! ## The rows of the command word (R72) -/

section
variable (w : CmdWord)

theorem and_row16_eq_iff (m : CmdWord) : w &&& 0xFFFF#16 = m ↔ w = m := by
  rw [show 0xFFFF#16 = BitVec.allOnes 16 from rfl, BitVec.and_allOnes]

theorem and_rowWrb_eq_iff : w &&& 0xFF00#16 = 0x1000#16 ↔ w.toNat / 2 ^ 8 = 0x10 :=
  and_highMask_eq_iff (m := 8) (n := 8) w 0x10#8

theorem and_rowRdw_eq_iff : w &&& 0xFFF8#16 = 0x3000#16 ↔ w.toNat / 2 ^ 3 = 0x600 :=
  and_highMask_eq_iff (m := 13) (n := 3) w 0x0600#13

theorem and_rowRdb_eq_iff : w &&& 0xFFE0#16 = 0x4000#16 ↔ w.toNat / 2 ^ 5 = 0x200 :=
  and_highMask_eq_iff (m := 11) (n := 5) w 0x0200#11

theorem toNat_indexRdw : (w &&& 0x0007#16).toNat = w.toNat % 2 ^ 3 := toNat_and_lowMask (m := 13) (n := 3) w

theorem toNat_indexRdb : (w &&& 0x001F#16).toNat = w.toNat % 2 ^ 5 := toNat_and_lowMask (m := 11) (n := 5) w

end

/-- Settles O3: each row of R72 is an interval of numbers, and R75's list is what the six intervals leave out. -/
theorem illegalWordsAreThese : Obligations.IllegalWordsAreThese := by
  intro w
  have hlt := w.isLt
  unfold decodeCommand Claims.IllegalWord
  simp only [and_row16_eq_iff, and_rowWrb_eq_iff, and_rowRdw_eq_iff, and_rowRdb_eq_iff, toNat_indexRdw, toNat_indexRdb]
  simp only [← BitVec.toNat_inj, BitVec.toNat_ofNat]
  split_ifs <;> simp only [true_iff, false_iff] <;> omega

/-! ## Decoding what was encoded -/

theorem decodeCommand_wrb (d : Byte) : decodeCommand (0x10#8 ++ d) = .ok (.wrb d) := by
  have hrow : (0x10#8 ++ d).toNat / 2 ^ 8 = 0x10 := by
    rw [toNat_append_eq_mul_add, BitVec.toNat_ofNat]
    omega
  have hinit : ¬ 0x10#8 ++ d = 0x0000#16 := fun h => by simp [h] at hrow
  have hlow : (0x10#8 ++ d).setWidth 8 = d := BitVec.setWidth_append_eq_right
  unfold decodeCommand
  rw [if_neg ((and_row16_eq_iff _ _).not.2 hinit), if_pos ((and_rowWrb_eq_iff _).2 hrow)]
  rw [hlow]

/-- Settles O1: a command row by its field, a sequencer row by R76's table at the phase and the index encoded. -/
theorem decodeOfEncode : Obligations.DecodeOfEncode := by
  intro i hi
  cases i with
  | init | fin | rds => rfl
  | wrb d => exact decodeCommand_wrb d
  | rdw i =>
    revert i
    decide
  | rdb j =>
    revert j
    decide
  | padm => exact decodeSeq_code .padm 0
  | padz => exact decodeSeq_code .padz 0
  | padl k => exact (decodeSeq_code .padl ⟨k.val, by omega⟩).trans (dif_pos k.isLt)
  | ldw i => exact (decodeSeq_code .ldw ⟨i.val, by omega⟩).trans (dif_pos i.isLt)
  | exp i => exact (decodeSeq_code .exp i).trans (if_pos (of_decide_eq_true hi))
  | lds => exact decodeSeq_code .lds 0
  | rnd i => exact decodeSeq_code .rnd i
  | chn => exact decodeSeq_code .chn 0
  | latch => exact decodeSeq_code .latch 0

/-- Settles O4: each of the eight words is the encoding of what it decodes to. -/
theorem specWordsDecode : Obligations.SpecWordsDecode :=
  ⟨decodeOfEncode .init rfl, decodeOfEncode (.wrb 0x61#8) rfl, decodeOfEncode (.rdw 4) rfl,
    decodeOfEncode (.rdb 19) rfl, decodeOfEncode (.padl 7) rfl, decodeOfEncode (.ldw 15) rfl,
    decodeOfEncode (.exp 16) rfl, decodeOfEncode (.rnd 79) rfl⟩

/-! ## Encoding what was decoded -/

theorem encode_of_decodeCommand {w : CmdWord} {i : Instr} (h : decodeCommand w = .ok i) :
    encode i = .cmd16 w ∧ i.wellFormed = true := by
  unfold decodeCommand at h
  simp only [and_row16_eq_iff, and_rowRdw_eq_iff, and_rowRdb_eq_iff] at h
  split_ifs at h with hinit hwrb hfin hrdw hrdwIndex hrdb hrdbIndex hrds <;> cases h <;> refine ⟨?_, rfl⟩
  · exact congrArg Encoded.cmd16 hinit.symm
  · exact congrArg Encoded.cmd16 (append_setWidth_of_and_eq hwrb)
  · exact congrArg Encoded.cmd16 hfin.symm
  · simp only [encode, toNat_indexRdw]
    exact congrArg Encoded.cmd16 (append_ofNat_mod (m := 13) (n := 3) (hi := 0x0600#13) hrdw)
  · simp only [encode, toNat_indexRdb]
    exact congrArg Encoded.cmd16 (append_ofNat_mod (m := 11) (n := 5) (hi := 0x0200#11) hrdb)
  · exact congrArg Encoded.cmd16 hrds.symm

/-- R76: a sequencer word is the code in its PH field and the number in its IDX field, side by side. -/
theorem code_append_seqIndex {w : SeqWord} {c : BitVec 4} (h : w &&& 0x780#11 = c ++ 0#7) :
    c ++ BitVec.ofNat 7 (seqIndex w) = w := by
  have hidx : seqIndex w = w.toNat % 2 ^ 7 := toNat_and_lowMask (m := 4) (n := 7) w
  rw [hidx]
  exact append_ofNat_mod ((and_highMask_eq_iff (m := 4) (n := 7) w c).1 h)

theorem encode_of_decodeSeq {w : SeqWord} {i : Instr} (h : decodeSeq w = .ok i) :
    encode i = .seq11 w ∧ i.wellFormed = true := by
  have row (c : BitVec 4) (hrow : w &&& 0x780#11 = c ++ 0#7) :
      Encoded.seq11 (c ++ BitVec.ofNat 7 (seqIndex w)) = .seq11 w := congrArg _ (code_append_seqIndex hrow)
  have row0 (c : BitVec 4) (hrow : w &&& 0x780#11 = c ++ 0#7) (hk : seqIndex w = 0) :
      Encoded.seq11 (c ++ 0#7) = .seq11 w := by
    simpa only [hk] using row c hrow
  simp only [decodeSeq, ite_eq_iff, dite_eq_iff, reduceCtorEq, and_false, or_false, exists_false,
    Except.ok.injEq] at h
  obtain ⟨hph, hk, rfl⟩ | ⟨-, ⟨hph, hk, rfl⟩ | ⟨-, ⟨hph, -, rfl⟩ | ⟨-, ⟨hph, -, rfl⟩ | ⟨-, ⟨hph, hk, rfl⟩ |
    ⟨-, ⟨hph, hk, rfl⟩ | ⟨-, ⟨hph, -, rfl⟩ | ⟨-, ⟨hph, hk, rfl⟩ | ⟨-, hph, hk, rfl⟩⟩⟩⟩⟩⟩⟩⟩ := h
  · exact ⟨row0 2#4 hph hk, rfl⟩
  · exact ⟨row0 3#4 hph hk, rfl⟩
  · exact ⟨row 4#4 hph, rfl⟩
  · exact ⟨row 5#4 hph, rfl⟩
  · exact ⟨row 6#4 hph, decide_eq_true hk.1⟩
  · exact ⟨row0 7#4 hph hk, rfl⟩
  · exact ⟨row 8#4 hph, rfl⟩
  · exact ⟨row0 9#4 hph hk, rfl⟩
  · exact ⟨row0 10#4 hph hk, rfl⟩

/-- Settles O2: the match of a row is the high field of its encodings, and the operand is the low field. -/
theorem encodeOfDecode : Obligations.EncodeOfDecode := by
  intro x i h
  cases x with
  | cmd16 w => exact encode_of_decodeCommand h
  | seq11 w => exact encode_of_decodeSeq h

end Sys2Proof.Machine
end

section
/-! PROOFS. What a step does with the word delivered (spec 30_encoding.md R75 to R77, R80): the step as the run of the
decoded instruction, the illegal word, the stops, and the responses (R74). -/

namespace Sys2Proof.Machine

/-! ## Selection -/

theorem isCommand_of_selects {s : State} {i : Instr} (h : s.selects i = true) : i.isCommand = false := by
  obtain ⟨j, hj, -, hm⟩ | ⟨-, -, hm⟩ | ⟨-, hm⟩ := coreMove_cases s <;> rw [coreMove_busy h] at hm <;> cases hm
  exact hj

theorem busy_of_selects {s : State} {i : Instr} (h : s.selects i = true) : s.ph.busy = true := by
  rw [selects_iff] at h
  revert h
  cases s.ph <;> simp [seqInstr, Phase.busy]

theorem selects_of_decodeSeq {s : State} {i : Instr} (h : decodeSeq s.seqWord = .ok i) : s.selects i = true :=
  (selects_iff s i).2 (decodeSeq_seqWord s ▸ h)

/-! ## The word delivered -/

theorem sameCore_of_delivers {s u : State} {w : CmdWord} (h : Claims.Delivers s w u) : SameCore s u := by
  obtain ⟨-, -, rfl⟩ | ⟨-, r, -, rfl⟩ := h
  · exact .refl _
  · exact ⟨_, _, rfl⟩

theorem port_of_delivers {s u : State} {w : CmdWord} (h : Claims.Delivers s w u) : u.port = some w := by
  obtain ⟨hport, -, rfl⟩ | ⟨-, r, -, rfl⟩ := h
  · exact hport
  · rfl

/-- R80: the word delivered is the one that the next move treats. -/
theorem nextMove_of_delivers {s u : State} {w : CmdWord} (h : Claims.Delivers s w u) : s.nextMove = u.portMove w := by
  obtain ⟨hport, ht | ⟨v, r, ht⟩, rfl⟩ | ⟨hport, r, ht, rfl⟩ := h <;>
    simp [State.nextMove, State.ownMove, hport, ht]

/-- R80: a legal word delivered is run where it is RDS or the core is not busy. -/
theorem step_of_delivers_legal {s u : State} {w : CmdWord} {i : Instr} (h : Claims.Delivers s w u)
    (hd : decodeCommand w = .ok i) (hw : w = 0x5000#16 ∨ s.ph.busy = false) : step s = exec i u := by
  have hm : u.portMove w = .execute i u := by
    obtain rfl | hb := hw
    · cases hd
      exact portMove_rds u
    · obtain ⟨p, r, rfl⟩ := sameCore_of_delivers h
      exact portMove_legal hb hd
  simp [step, nextMove_of_delivers h, hm]

/-- R80, case 2: another word delivered to a busy core is held, while the core takes its step. -/
theorem step_of_delivers_held {s u : State} {w : CmdWord} {i : Instr} (h : Claims.Delivers s w u)
    (hw : w ≠ 0x5000#16) (hsel : s.selects i = true) : step s = exec i u := by
  obtain ⟨p, r, rfl⟩ := sameCore_of_delivers h
  have hheld := portMove_held (s := { s with port := p, turns := r }) (busy_of_selects hsel) hw
  have hcore := coreMove_busy (s := { s with port := p, turns := r }) hsel
  simp [step, nextMove_of_delivers h, hheld, hcore]

/-- R76: with the outside quiet a busy core takes its step. -/
theorem step_of_quietOutside {s : State} {i : Instr} (hq : s.quietOutside = true) (hsel : s.selects i = true) :
    step s = exec i s := by
  obtain ⟨ht, hrds⟩ : s.turns = [] ∧ s.port ≠ some 0x5000#16 := by simpa [State.quietOutside] using hq
  cases hport : s.port with
  | none => simp [step, State.nextMove, State.ownMove, ht, hport, coreMove_busy hsel]
  | some w =>
    have hw : w ≠ 0x5000#16 := fun h => hrds (h ▸ hport)
    exact step_of_delivers_held (.inl ⟨hport, .inl ht, rfl⟩) hw hsel

/-- R76: the core steps when the turn is given to it. -/
theorem step_of_core_turn {s : State} {r : List Turn} {i : Instr} (ht : s.turns = .core :: r)
    (hsel : s.selects i = true) : step s = exec i { s with turns := r } := by
  have hcore := coreMove_busy (s := { s with turns := r }) hsel
  simp [step, State.nextMove, ht, hcore]

/-- Settles O5: the cases of a word delivered, of a quiet outside, and of a turn of the core. -/
theorem stepRunsDecoded : Obligations.StepRunsDecoded := by
  refine ⟨?_, ?_, ?_, ?_, ?_, ?_⟩
  · exact fun s w r i hport ht hd hw => step_of_delivers_legal (.inr ⟨hport, r, ht, rfl⟩) hd hw
  · exact fun s w i hport ht hd hw => step_of_delivers_legal (.inl ⟨hport, ht, rfl⟩) hd hw
  · exact fun s i hq _ hd => step_of_quietOutside hq (selects_of_decodeSeq hd)
  · exact fun s w i hport hw ht _ hd =>
      step_of_delivers_held (.inl ⟨hport, .inr ht, rfl⟩) hw (selects_of_decodeSeq hd)
  · exact fun s w r i hport hw ht _ hd =>
      step_of_delivers_held (.inr ⟨hport, r, ht, rfl⟩) hw (selects_of_decodeSeq hd)
  · exact fun s r i ht _ hd => step_of_core_turn ht (selects_of_decodeSeq hd)

/-! ## The stops -/

/-- R76: a micro-operation is what its rule says where the sequencer word selects it. -/
theorem exists_exec_eq_perform {i : Instr} (hi : i.isCommand = false) (s : State) :
    ∃ op, exec i s = s.perform i op := by
  cases i with
  | init | wrb | fin | rdw | rdb | rds => cases hi
  | padm | padz | padl | ldw | exp | lds | rnd | chn | latch => exact ⟨_, rfl⟩

/-- R80: a command is what its rule says where it is accepted. -/
theorem exists_exec_eq_accept {i : Instr} (hi : i.isCommand = true) (s : State) :
    ∃ legal op, exec i s = s.accept legal .protocol op := by
  cases i with
  | init | wrb | fin | rdw | rdb | rds =>
    simp only [exec, execInit, execWrb, execFin, execRdw, execRdb, execRds]
    exact ⟨_, _, rfl⟩
  | padm | padz | padl | ldw | exp | lds | rnd | chn | latch => cases hi

/-- Settles O12: every micro-operation checks its selection first. -/
theorem microOperationNeedsItsWord : Obligations.MicroOperationNeedsItsWord := by
  intro i s hi hd
  obtain ⟨op, hop⟩ := exists_exec_eq_perform hi s
  have hsel : s.selects i = false := by
    rw [decodeSeq_seqWord, Ne, ← selects_iff] at hd
    simpa using hd
  rw [hop, perform_not_selected hsel]

/-- Settles O11: a command, an illegal word and the core's own step all stop in a state that is no state of the core. -/
theorem reservedStateStops : Obligations.ReservedStateStops := by
  intro s hs hreset
  obtain ⟨r, ht, -⟩ | ⟨p, r, i, h, hi⟩ | ⟨p, r, -, h⟩ | ⟨p, r, hb, hk, -⟩ | ⟨-, h⟩ := step_cases s
  · exact absurd ht (hreset r)
  · obtain ⟨-, hsel⟩ | ⟨w, -, hd⟩ := hi
    · rw [seqLegal_of_selects hsel] at hs
      cases hs
    · obtain ⟨legal, op, hop⟩ := exists_exec_eq_accept (isCommand_of_decodeCommand hd) { s with port := p, turns := r }
      rw [h, hop]
      exact accept_reserved hs
  · exact h.trans (accept_reserved hs)
  · simp [seqLegal_of_not_busy hb, hk] at hs
  · exact h

/-! ## Responses (R74) -/

/-- R74: nothing is said to the host and no turn is taken. -/
def Silent (s t : State) : Prop :=
  t.turns = s.turns ∧ t.fresh = s.fresh ∧ t.port = s.port ∧ t.responses = s.responses

/-- R74, R80: the command was held, or it was accepted and got one response. -/
def HeldOrAnswered (s t : State) : Prop :=
  t.turns = s.turns ∧ t.fresh = s.fresh ∧
    ((s.ph.busy = true ∧ t = s) ∨ (t.port = none ∧ ∃ r : Response, t.responses = s.responses ++ [r]))

theorem Declines.heldOrAnswered {s t : State} (h : Declines s t) : HeldOrAnswered s t := by
  cases h with
  | held hb => exact ⟨rfl, rfl, .inl ⟨hb, rfl⟩⟩
  | refused | raised => exact ⟨rfl, rfl, .inr ⟨rfl, _, rfl⟩⟩

theorem Performs.silent {i : Instr} {s t : State} (h : Performs i s t) (hi : i.isCommand = false) : Silent s t := by
  cases h with
  | init | wrbOpen | wrbFull | fin | rdw | rdb | rds => cases hi
  | _ => exact ⟨rfl, rfl, rfl, rfl⟩

/-- A micro-operation that answers a next state has asserted a partial block or performed its rule. -/
theorem exec_micro_next {i : Instr} {s t : State} (hi : i.isCommand = false) (h : exec i s = .next t) :
    PartialBlock s t ∨ Performs i s t := by
  cases i with
  | init | wrb | fin | rdw | rdb | rds => cases hi
  | padm =>
    obtain ⟨hp, hk, ⟨hf, rfl⟩ | ⟨hf, rfl⟩⟩ := execPadm_next h
    · exact .inr (.padmOpen hp hk hf)
    · exact .inr (.padmFull hp hk hf)
  | padz =>
    obtain ⟨hp, hk, ⟨hf, rfl⟩ | ⟨hf, hne, rfl⟩ | ⟨hf, rfl⟩⟩ := execPadz_next h
    · exact .inr (.padzEnd hp hk hf)
    · exact .inr (.padzOpen hp hk hf hne)
    · exact .inr (.padzFull hp hk hf)
  | padl k =>
    obtain ⟨hp, hk, hcase⟩ := execPadl_next h
    simp only [← hk] at hcase
    obtain ⟨hf, rfl⟩ | ⟨hf, rfl⟩ := hcase
    · exact .inr (.padlOpen hp hk hf)
    · exact .inr (.padlFull hp hk hf)
  | ldw i =>
    obtain ⟨hp, hk, hcase⟩ := execLdw_next h
    simp only [← hk] at hcase
    obtain ⟨-, hf, rfl⟩ | ⟨-, h15, rfl⟩ | ⟨-, h15, rfl⟩ := hcase
    · exact .inl ⟨hp, hf, rfl⟩
    · exact .inr (.ldwLast hp hk (hk ▸ h15))
    · exact .inr (.ldwNext hp hk (hk ▸ h15))
  | exp i =>
    obtain ⟨hp, rfl, hk, _, rfl, ⟨h79, rfl⟩ | ⟨h79, rfl⟩⟩ := execExp_next h
    · exact .inr (.expNext hp hk h79)
    · exact .inr (.expLast hp h79)
  | lds =>
    obtain ⟨hp, hk, rfl⟩ := execLds_next h
    exact .inr (.lds hp hk)
  | rnd i =>
    obtain ⟨hp, rfl, u, rfl, ⟨h79, rfl⟩ | ⟨h79, rfl⟩⟩ := execRnd_next h
    · exact .inr (.rndNext hp h79)
    · exact .inr (.rndLast hp h79)
  | chn =>
    obtain ⟨hp, hk, rfl⟩ := execChn_next h
    exact .inr (.chn hp hk)
  | latch =>
    obtain ⟨hp, hk, rfl⟩ := execLatch_next h
    exact .inr (.latch hp hk)

theorem exec_micro_silent {i : Instr} {s t : State} (hi : i.isCommand = false) (h : exec i s = .next t) :
    Silent s t := by
  obtain ⟨-, -, rfl⟩ | hp := exec_micro_next hi h
  · exact ⟨rfl, rfl, rfl, rfl⟩
  · exact hp.silent hi

theorem heldOrAnswered_respond (s : State) {u : State} (ok : Bool) (data : Word) (ht : u.turns = s.turns := by rfl)
    (hf : u.fresh = s.fresh := by rfl) (hr : u.responses = s.responses := by rfl) :
    HeldOrAnswered s (u.respond ok data) :=
  ⟨ht, hf, .inr ⟨rfl, _, by rw [State.respond_responses, hr]⟩⟩

theorem exec_command_heldOrAnswered {i : Instr} {s t : State} (hi : i.isCommand = true) (h : exec i s = .next t) :
    HeldOrAnswered s t := by
  cases i with
  | init =>
    obtain ⟨-, ⟨hb, rfl⟩ | ⟨-, rfl⟩⟩ := execInit_next h
    · exact Declines.heldOrAnswered (.held hb)
    · exact heldOrAnswered_respond s _ _
  | wrb d =>
    obtain ⟨hs, ⟨-, -, rfl⟩ | ⟨-, -, -, rfl⟩ | ⟨-, -, -, rfl⟩ | hout⟩ := execWrb_next h
    · exact heldOrAnswered_respond s _ _
    · exact heldOrAnswered_respond s _ _
    · exact heldOrAnswered_respond s _ _
    · exact (hout.declines hs).heldOrAnswered
  | fin =>
    obtain ⟨hs, ⟨-, rfl⟩ | hout⟩ := execFin_next h
    · exact heldOrAnswered_respond s _ _
    · exact (hout.declines hs).heldOrAnswered
  | rdw k =>
    obtain ⟨hs, ⟨-, rfl⟩ | hout⟩ := execRdw_next h
    · exact heldOrAnswered_respond s _ _
    · exact (hout.declines hs).heldOrAnswered
  | rdb j =>
    obtain ⟨hs, ⟨-, rfl⟩ | hout⟩ := execRdb_next h
    · exact heldOrAnswered_respond s _ _
    · exact (hout.declines hs).heldOrAnswered
  | rds =>
    obtain ⟨-, rfl⟩ := execRds_next h
    exact heldOrAnswered_respond s _ _
  | padm | padz | padl | ldw | exp | lds | rnd | chn | latch => cases hi

/-- Settles O10: a command is held, refused, faulted or performed, and a micro-operation is performed or asserts. -/
theorem oneResponsePerCommand : Obligations.OneResponsePerCommand := by
  intro i s t h
  cases hi : i.isCommand
  · obtain ⟨ht, hf, hport, hr⟩ := exec_micro_silent hi h
    exact ⟨ht, hf, nofun, fun _ => ⟨hport, hr⟩⟩
  · obtain ⟨ht, hf, hcase⟩ := exec_command_heldOrAnswered hi h
    exact ⟨ht, hf, fun _ => hcase, nofun⟩

/-! ## The illegal word (R75) -/

theorem setWidth_code_eq_codeOf (x : ErrCode) : x.code.setWidth 32 = BitVec.ofNat 32 (Claims.codeOf x) := by
  cases x <;> rfl

/-- R80: an illegal word delivered is accepted where the core is not busy. -/
theorem step_of_delivers_illegal {s u : State} {w : CmdWord} {e : DecodeReject} (h : Claims.Delivers s w u)
    (hd : decodeCommand w = .error e) (hb : s.ph.busy = false) : step s = u.acceptIllegal := by
  obtain ⟨p, r, rfl⟩ := sameCore_of_delivers h
  have hm := portMove_illegal (s := { s with port := p, turns := r }) hb hd
  simp [step, nextMove_of_delivers h, hm]

theorem raiseCommand_eq_faulted (s : State) (x : ErrCode) : s.raiseCommand x = Claims.faulted s x := by
  simp only [State.raiseCommand, State.raise, State.respond, Claims.faulted, setWidth_code_eq_codeOf]

theorem refuseInFault_eq_answered (s : State) :
    s.refuseInFault = Claims.answered s false (BitVec.ofNat 32 (Claims.codeOf s.err)) := by
  simp only [State.refuseInFault, State.respond, Claims.answered, setWidth_code_eq_codeOf]

/-- Settles O7: the word is accepted as illegal where the core is not busy, and held while it is. -/
theorem illegalWordTreated : Obligations.IllegalWordTreated := by
  intro s u w hs hdel hill
  have hd := (illegalWordsAreThese w).2 hill
  obtain ⟨p, r, hu⟩ := sameCore_of_delivers hdel
  have hus : u.seqLegal = true := hu ▸ hs
  refine ⟨hd, fun hp => ?_, fun hp => ?_, fun hb => ?_⟩
  · obtain ⟨hb, hf⟩ : s.ph.busy = false ∧ s.ph ≠ .fault := by
      obtain h | h | h := hp <;> simp [h, Phase.busy]
    rw [step_of_delivers_illegal hdel hd hb, ← raiseCommand_eq_faulted]
    exact accept_raise hus rfl (hu ▸ hb) (hu ▸ hf)
  · rw [step_of_delivers_illegal hdel hd (by rw [hp]; rfl), show s.err = u.err from hu ▸ rfl,
      ← refuseInFault_eq_answered]
    exact accept_refused hus rfl (hu ▸ hp)
  · obtain ⟨i, hi⟩ := (seqLegal_of_busy hb).1 hs
    have hsel := (selects_iff s i).2 hi
    have hrds : w ≠ 0x5000#16 := by
      rintro rfl
      cases hd
    refine ⟨i, (decodeSeq_seqWord s).trans hi, step_of_delivers_held hdel hrds hsel, fun t ht => ?_⟩
    obtain ⟨-, -, hport, hr⟩ := exec_micro_silent (isCommand_of_selects hsel) ht
    exact ⟨hport.trans (port_of_delivers hdel), hr.trans (hu ▸ rfl)⟩

end Sys2Proof.Machine
end

section
/-! PROOFS. The pseudo-instructions of the assembler (spec 30_encoding.md R82). -/

namespace Sys2Proof.Machine

/-! ## Text -/

/-- R72: the word of WRB, as a number. -/
theorem append_ofNat_eq_ofNat_add {n : Nat} (hn : n < 256) :
    0x10#8 ++ BitVec.ofNat 8 n = BitVec.ofNat 16 (0x1000 + n) := by
  apply BitVec.eq_of_toNat_eq
  rw [toNat_append_eq_mul_add]
  simp only [BitVec.toNat_ofNat]
  omega

theorem sendInstr_wrb_ofNat {n : Nat} (hn : n < 256) :
    sendInstr (.wrb (BitVec.ofNat 8 n)) = [.send (BitVec.ofNat 16 (0x1000 + n))] :=
  congrArg (fun w : CmdWord => [HostOp.send w]) (append_ofNat_eq_ofNat_add hn)

/-- R82: a character of a text is ASCII. -/
theorem toNat_lt_of_textChar {c : Char} (h : textChar c = true) : c.toNat < 256 := by
  obtain ⟨-, hle, -⟩ := of_decide_eq_true h
  omega

theorem sendText_of_all {text : List Char} (h : text.all textChar = true) :
    sendText text = some (text.map fun c => .send (BitVec.ofNat 16 (0x1000 + c.toNat))) := by
  rw [sendText, if_pos h, List.map_eq_flatMap]
  refine congrArg some (List.flatMap_congr fun c hc => ?_)
  exact sendInstr_wrb_ofNat (toNat_lt_of_textChar (List.all_eq_true.1 h c hc))

theorem sendText_eq_none {text : List Char} (h : text.all textChar = false) : sendText text = none := by
  simp [sendText, h]

theorem expand_msg_of_all {text : List Char} (h : text.all textChar = true) :
    (Asm.msg text).expand = some
      (.send 0x0000#16 :: (text.map fun c => .send (BitVec.ofNat 16 (0x1000 + c.toNat))) ++ [.send 0x2000#16]) := by
  simp only [Asm.expand, sendText_of_all h]
  rfl

theorem expand_rdd : Asm.rdd.expand = some ((List.range 5).map fun i => .send (BitVec.ofNat 16 (0x3000 + i))) := by
  decide

theorem expand_rddb : Asm.rddb.expand = some ((List.range 20).map fun j => .send (BitVec.ofNat 16 (0x4000 + j))) := by
  decide

/-! ## WAIT -/

/-- R82: the polls of a WAIT are one RDS for each answer with BUSY set and one more. -/
theorem pollWords_append {busy : List Word} {v : Word} (hbusy : ∀ x ∈ busy, x.getLsbD 0 = true)
    (hv : v.getLsbD 0 = false) : pollWords (busy ++ [v]) = List.replicate (busy.length + 1) 0x5000#16 := by
  induction busy with
  | nil => exact pollWords_idle [] hv
  | cons x busy ih =>
    obtain ⟨hx, hrest⟩ := List.forall_mem_cons.1 hbusy
    rw [List.cons_append, pollWords_busy _ hx, ih hrest]
    rfl

/-- R151: bit 0 of STATUS is BUSY. -/
theorem getLsbD_status_zero (s : State) : s.status.getLsbD 0 = s.ph.busy := by
  have low {m n : Nat} (x : BitVec m) (y : BitVec n) (hn : 0 < n) : (x ++ y).getLsbD 0 = y.getLsbD 0 := by
    rw [BitVec.getLsbD_append, if_pos hn]
  have hbusy : (BitVec.ofBool s.ph.busy).getLsbD 0 = s.ph.busy := by simp
  rw [State.status]
  exact (low _ _ (by decide)).trans ((low _ _ (by decide)).trans ((low _ _ (by decide)).trans
    ((low _ _ (by decide)).trans ((low _ _ (by decide)).trans hbusy))))

/-- R82: a WAIT is over when the core is not busy. -/
theorem waitEnds_status (s : State) : waitEnds s.status = !s.ph.busy := by
  rw [waitEnds, getLsbD_status_zero]

/-- Settles O54: text by `sendText`, the reads by evaluation, WAIT by induction over the answers. -/
theorem pseudoInstructionsExpand : Obligations.PseudoInstructionsExpand := by
  refine ⟨fun text h => ?_, fun busy v hbusy hv => ?_, fun s => ?_, fun text h => ?_, expand_rdd, expand_rddb⟩
  · simp [Asm.expand, sendText_eq_none h]
  · simp [Asm.expand, HostOp.words, pollWords_append hbusy hv]
  · simp [waitEnds_status]
  · exact ⟨sendText_of_all h, expand_msg_of_all h⟩

end Sys2Proof.Machine
end

section
/-! PROOFS. The busy span (spec 30_encoding.md R76, 70_reset_and_hazards.md R194, R200): which rule a micro-operation
performs under the invariant, and how many of them are left before the core is not busy. -/

namespace Sys2Proof.Machine

/-! ## The core's own step -/

/-- R76: a busy core performs the rule of the micro-operation selected. -/
def CoreStep (s t : State) : Prop := ∃ i, s.selects i = true ∧ exec i s = .next t ∧ Performs i s t

/-- Under the invariant a busy core has a step of its own. -/
theorem State.Inv.exists_coreStep {s : State} (hs : s.Inv) (hb : s.ph.busy = true) : ∃ t, CoreStep s t := by
  obtain ⟨i, hi⟩ := (seqLegal_of_busy hb).1 hs.seq
  have hsel := (selects_iff s i).2 hi
  obtain ⟨t, ht⟩ := hs.exec_has_next (.inr hsel)
  exact ⟨t, i, hsel, ht, (exec_micro_next (isCommand_of_selects hsel) ht).resolve_left hs.not_partialBlock⟩

theorem CoreStep.inv {s t : State} (h : CoreStep s t) (hs : s.Inv) : t.Inv := by
  obtain ⟨i, -, -, hp⟩ := h
  exact hp.inv hs

/-- R74: the core's own step says nothing to the host. -/
theorem CoreStep.silent {s t : State} (h : CoreStep s t) : Silent s t := by
  obtain ⟨i, hsel, he, -⟩ := h
  exact exec_micro_silent (isCommand_of_selects hsel) he

/-! ## The steps left -/

/-- R32: the micro-operations left after CHN, where RSM leads to a padding phase or to LATCH. -/
def Resume.stepsLeft : Resume → Nat
  | .absorb => 0
  | .padz => 228
  | .latch => 1

/-- R194, R200: the micro-operations left before the core is not busy. -/
def State.stepsLeft (s : State) : Nat :=
  match s.ph with
  | .idle => 0
  | .absorb => 0
  | .done => 0
  | .fault => 0
  | .padm => if s.fill.val ≤ 55 then 228 - s.fill.val else 454 - s.fill.val
  | .padz => if s.fill.val ≤ 56 then 228 - s.fill.val else 454 - s.fill.val
  | .padl => 171 - s.idx.val
  | .ldw => 162 - s.idx.val + s.rsm.stepsLeft
  | .exp => 162 - s.idx.val + s.rsm.stepsLeft
  | .lds => 82 + s.rsm.stepsLeft
  | .rnd => 81 - s.idx.val + s.rsm.stepsLeft
  | .chn => 1 + s.rsm.stepsLeft
  | .latch => 1

theorem stepsLeft_of_not_busy {s : State} (hb : s.ph.busy = false) : s.stepsLeft = 0 := by
  unfold State.stepsLeft
  cases hp : s.ph <;> simp [hp, Phase.busy] at hb ⊢

/-- R194: the bound of a busy span. -/
theorem State.stepsLeft_le (s : State) : s.stepsLeft ≤ 398 := by
  have hr : s.rsm.stepsLeft ≤ 228 := by
    cases s.rsm <;> decide
  unfold State.stepsLeft
  cases hp : s.ph <;> simp only [] <;> (try split) <;> omega

/-- Every micro-operation is one step of the span. -/
theorem Performs.stepsLeft_succ {i : Instr} {s t : State} (h : Performs i s t) (hi : i.isCommand = false)
    (hs : s.Inv) : t.stepsLeft + 1 = s.stepsLeft := by
  cases h with
  | init | wrbOpen | wrbFull | fin | rdw | rdb | rds => cases hi
  | padmOpen hp hk hf | padzOpen hp hk hf hne =>
    simp only [State.stepsLeft, hp, State.store_ph, State.store_fill_val]
    split_ifs <;> omega
  | padmFull hp hk hf | padzEnd hp hk hf | padzFull hp hk hf =>
    simp [State.stepsLeft, hp, hf, Resume.stepsLeft]
  | padlFull hp hk hf =>
    obtain ⟨hfill, -⟩ := hs.fill_of_padl hp
    simp only [State.stepsLeft, hp, State.startBlock_ph, State.startBlock_idx, State.startBlock_rsm,
      Resume.stepsLeft]
    omega
  | padlOpen hp hk | ldwNext hp hk | ldwLast hp hk | expNext hp hk | expLast hp hk | lds hp hk | rndNext hp hk
  | rndLast hp hk =>
    simp [State.stepsLeft, hp]
    omega
  | chn hp hk =>
    cases hr : s.rsm <;> simp [State.stepsLeft, hp, hr, Resume.phase, Resume.stepsLeft]
  | latch hp hk => simp [State.stepsLeft, hp]
theorem CoreStep.stepsLeft_succ {s t : State} (h : CoreStep s t) (hs : s.Inv) : t.stepsLeft + 1 = s.stepsLeft := by
  obtain ⟨i, hsel, -, hp⟩ := h
  exact hp.stepsLeft_succ (isCommand_of_selects hsel) hs

end Sys2Proof.Machine
end

section
/-! PROOFS. A host that drives the core (spec 30_encoding.md R82, 70_reset_and_hazards.md R194): the steps of the pair,
and WAIT. -/

namespace Sys2Proof.Machine

/-! ## The steps of the pair -/

/-- R178: with no turn but one left to the core, a core that is not busy does nothing. -/
theorem step_quiet {s : State} {r : List Turn} (ht : r = [] ∨ r = [.core]) (hb : s.ph.busy = false) (hk : s.idx = 0)
    (hport : s.port = none) : step { s with turns := r } = .next { s with turns := [] } := by
  have hquiet := coreMove_quiet (s := { s with turns := [] }) hb hk
  simp only [hport] at hquiet
  obtain rfl | rfl := ht <;> simp [step, State.nextMove, State.ownMove, hport, hquiet]

/-- A grant to a busy core. -/
theorem driven_step_core_busy {prog : List HostOp} {s t : State} (h : CoreStep { s with turns := [] } t) :
    Driven.step .core ⟨prog, s⟩ = .next ⟨prog, t⟩ := by
  obtain ⟨i, hsel, he, -⟩ := h
  exact driven_step_core ((step_of_core_turn (s := { s with turns := [.core] }) rfl hsel).trans he)

/-- R151: RDS is performed in every phase. -/
theorem exec_rds_eq {s : State} (hs : s.seqLegal = true) : exec .rds s = .next (s.respond true s.status) :=
  accept_legal (legal := fun _ => true) hs rfl

/-- R82: a poll is answered at once, in every phase. -/
theorem driven_step_poll {s : State} (rest : List HostOp) (hs : s.seqLegal = true) (hport : s.port = none) :
    Driven.step .host ⟨.waitIdle :: rest, s⟩ =
      .next ⟨if s.ph.busy then .waitIdle :: rest else rest, Claims.answered { s with turns := [] } true s.status⟩ := by
  have hturns : Driven.hostTurns ⟨.waitIdle :: rest, s⟩ = [.command 0x5000#16] :=
    hostTurns_free (d := ⟨.waitIdle :: rest, s⟩) hport rfl
  have hstep : step { s with turns := Driven.hostTurns ⟨.waitIdle :: rest, s⟩ } =
      .next (Claims.answered { s with turns := [] } true s.status) := by
    rw [hturns]
    have hdel : Claims.Delivers { s with turns := [.command 0x5000#16] } 0x5000#16
        { s with port := some 0x5000#16, turns := [] } := .inr ⟨hport, [], rfl, rfl⟩
    exact (step_of_delivers_legal hdel rfl (.inl rfl)).trans (exec_rds_eq hs)
  rw [driven_step_host hstep, progAfter_wait hport rfl rfl, waitEnds_status]
  cases s.ph.busy <;> rfl

/-- At the end of the program a core that is not busy stays as it is. -/
theorem driven_step_end {g : Grant} {s : State} (hb : s.ph.busy = false) (hk : s.idx = 0) (hport : s.port = none) :
    Driven.step g ⟨[], s⟩ = .next ⟨[], { s with turns := [] }⟩ := by
  cases g with
  | host =>
    have hturns : Driven.hostTurns ⟨[], s⟩ = [] := hostTurns_end rfl
    have hstep : step { s with turns := Driven.hostTurns ⟨[], s⟩ } = .next { s with turns := [] } := by
      rw [hturns]
      exact step_quiet (.inl rfl) hb hk hport
    rw [driven_step_host hstep, progAfter_end _ rfl]
  | core => exact driven_step_core (step_quiet (.inr rfl) hb hk hport)

/-! ## WAIT -/

/-- The WAIT is over: after the responses `rs` its polls were answered some number of times with BUSY set and then once
with BUSY clear, and the core is not busy. -/
def WaitOver (rs : List Response) (d : Driven) : Prop :=
  d.prog = [] ∧ d.core.ph.busy = false ∧ ∃ k v,
    d.core.responses = rs ++ List.replicate k ⟨true, 0x00000001#32⟩ ++ [⟨true, v⟩] ∧ v.getLsbD 0 = false

/-- A poll answered with BUSY set is one of those before the end. -/
theorem WaitOver.after_busy_poll {rs : List Response} {d : Driven} (h : WaitOver (rs ++ [⟨true, 0x00000001#32⟩]) d) :
    WaitOver rs d := by
  obtain ⟨hp, hb, k, v, hr, hv⟩ := h
  exact ⟨hp, hb, k + 1, v, by simp [hr, List.replicate_succ], hv⟩

/-- What comes after the end of the WAIT changes nothing of it. -/
theorem waitOver_run_end {rs : List Response} {s : State} (gs : List Grant) (hb : s.ph.busy = false) (hk : s.idx = 0)
    (hport : s.port = none) (hover : WaitOver rs ⟨[], s⟩) :
    ∃ d, Driven.run gs ⟨[], s⟩ = .next d ∧ WaitOver rs d := by
  induction gs generalizing s with
  | nil => exact ⟨_, rfl, hover⟩
  | cons g gs ih =>
    rw [driven_run_cons (driven_step_end hb hk hport)]
    exact ih (s := { s with turns := [] }) hb hk hport hover

/-- A poll of a core that is not busy ends the WAIT. -/
theorem waitOver_run_host {s : State} (gs : List Grant) (hs : s.seqLegal = true) (hport : s.port = none)
    (hb : s.ph.busy = false) : ∃ d, Driven.run (.host :: gs) ⟨[.waitIdle], s⟩ = .next d ∧ WaitOver s.responses d := by
  have hv : s.status.getLsbD 0 = false := (getLsbD_status_zero s).trans hb
  rw [driven_run_cons (driven_step_poll [] hs hport), hb]
  exact waitOver_run_end gs hb (idx_eq_zero_of_seqLegal hs hb) rfl
    ⟨rfl, hb, 0, s.status, by simp [Claims.answered], hv⟩

/-- R151: while a block or the padding is processed STATUS has BUSY set and every other bit clear. -/
theorem State.Inv.status_of_busy {s : State} (hs : s.Inv) (hb : s.ph.busy = true) : s.status = 0x00000001#32 := by
  have hne {p : Phase} (hp : p.busy = false) : s.ph ≠ p := fun h => by simp [h, hp] at hb
  have herr : s.err = .none := hs.err_of_ne_fault (hne rfl)
  have hvalid : s.dvalid = false := by
    rw [Bool.eq_false_iff, Ne, hs.valid]
    exact hne rfl
  simp [State.status, herr, hvalid, hb, hne (p := .absorb) rfl, ErrCode.code]

/-- R82, R194: the WAIT is over once the core has been granted the steps it has left and the host one more. -/
theorem waitOver_run {s : State} (gs : List Grant) (hs : s.Inv) (hport : s.port = none)
    (hleft : s.stepsLeft ≤ gs.count .core) :
    ∃ d, Driven.run (gs ++ [.host]) ⟨[.waitIdle], s⟩ = .next d ∧ WaitOver s.responses d := by
  have hu : State.Inv { s with turns := [] } := hs.of_sameCore ⟨s.port, [], rfl⟩
  cases hb : s.ph.busy
  · cases gs with
    | nil => exact waitOver_run_host [] hs.seq hport hb
    | cons g gs =>
      cases g with
      | host => exact waitOver_run_host _ hs.seq hport hb
      | core =>
        have hstep := step_quiet (.inr rfl) hb (idx_eq_zero_of_seqLegal hs.seq hb) hport
        rw [List.cons_append, driven_run_cons (driven_step_core hstep)]
        exact waitOver_run gs hu hport (by simp [stepsLeft_of_not_busy (s := { s with turns := [] }) hb])
  · obtain ⟨t, ht⟩ := hu.exists_coreStep hb
    have hsucc : t.stepsLeft + 1 = s.stepsLeft := ht.stepsLeft_succ hu
    cases gs with
    | nil =>
      simp only [List.count_nil] at hleft
      omega
    | cons g gs =>
      cases g with
      | host =>
        rw [List.cons_append, driven_run_cons (driven_step_poll [] hs.seq hport), hb]
        have hleft' : s.stepsLeft ≤ gs.count .core := by simpa using hleft
        obtain ⟨d, hd, hover⟩ := waitOver_run gs (hu.respond true s.status) rfl hleft'
        refine ⟨d, hd, WaitOver.after_busy_poll ?_⟩
        rw [← hs.status_of_busy hb]
        exact hover
      | core =>
        obtain ⟨-, -, hport', hr⟩ := ht.silent
        rw [List.count_cons_self] at hleft
        rw [List.cons_append, driven_run_cons (driven_step_core_busy ht), ← show t.responses = s.responses from hr]
        exact waitOver_run gs (ht.inv hu) (hport'.trans hport) (by omega)

/-- Settles O55: a poll by `driven_step_poll`, a step of the core by the driver's law, and every schedule by
`waitOver_run`, since no state has more than 398 steps left. -/
theorem waitPollsUntilNotBusy : Obligations.WaitPollsUntilNotBusy := by
  refine ⟨fun s rest hs hport => driven_step_poll rest hs hport, fun s rest d h => ?_, fun s gs hs hport hcount => ?_⟩
  · obtain ⟨-, -, hprog⟩ | ⟨hg, -⟩ := driven_step_next h
    · exact hprog
    · cases hg
  · obtain ⟨d, hd, hp, hb, k, v, hr, hv⟩ := waitOver_run gs hs hport (s.stepsLeft_le.trans hcount)
    exact ⟨d, k, v, hd, hp, hb, hr, hv⟩

end Sys2Proof.Machine
end

section
/-! PROOFS. The reference layer, one byte, word, round or block at a time (spec 40_padder.md R90, 41_scheduler.md R110
to R113, 42_compressor.md R129, 43_digest.md R145, R147): what the steps of the core are compared with. -/

namespace Sys2Proof.Machine.Reference

/-! ## The padding (R90) -/

/-- R90: the message, the mark byte and `z` zero bytes. -/
def marked (m : List Byte) (z : Nat) : List Byte := m ++ 0x80#8 :: List.replicate z 0x00#8

/-- R90: the marked message with all its zero bytes, and the first `k` bytes of the length field. -/
def lengthened (m : List Byte) (k : Nat) : List Byte :=
  marked m (zeroCount m.length) ++ (be64bytes (BitVec.ofNat 64 (8 * m.length))).take k

theorem marked_succ (m : List Byte) (z : Nat) : marked m (z + 1) = marked m z ++ [0x00#8] := by
  simp [marked, List.replicate_succ']

@[simp] theorem length_marked (m : List Byte) (z : Nat) : (marked m z).length = m.length + 1 + z := by
  simp [marked]
  omega

@[simp] theorem lengthened_zero (m : List Byte) : lengthened m 0 = marked m (zeroCount m.length) := by
  simp [lengthened]

theorem lengthened_succ (m : List Byte) (k : Fin 8) :
    lengthened m (k.val + 1) = lengthened m k.val ++ [lengthByte (BitVec.ofNat 64 (8 * m.length)) k] := by
  simp [lengthened, be64bytes, List.take_add_one]

theorem lengthened_eight (m : List Byte) : lengthened m 8 = pad m := by
  rw [lengthened, List.take_of_length_le (length_be64bytes _).le]
  simp [marked, pad]

/-- R90: the zero-fill ends where FILL is 56, and it is the first such end. -/
theorem marked_length_mod_eq_iff {len z : Nat} (hz : z ≤ zeroCount len) :
    (len + 1 + z) % 64 = 56 ↔ z = zeroCount len := by
  unfold zeroCount at *
  omega

/-! ## The schedule (R111, R112) -/

theorem length_words (x : List Byte) : (words x).length = 16 := by simp [words]

theorem length_expandBy (n : Nat) (s : List Word) : (expandBy n s).length = s.length + n := by
  induction n generalizing s with
  | zero => rfl
  | succ n ih =>
    simp [expandBy, ih]
    omega

/-- R112: the words given come first. -/
theorem take_length_expandBy (n : Nat) (s : List Word) : (expandBy n s).take s.length = s := by
  induction n generalizing s with
  | zero => simp [expandBy]
  | succ n ih =>
    have hgiven := congrArg (List.take s.length) (ih (s ++ [expandNext s]))
    simpa [expandBy, List.take_take] using hgiven

/-- R112: every further word is expanded from those before it. -/
theorem take_succ_expandBy {n k : Nat} {s : List Word} (hk : s.length ≤ k) (hn : k < s.length + n) :
    (expandBy n s).take (k + 1) = (expandBy n s).take k ++ [expandNext ((expandBy n s).take k)] := by
  induction n generalizing s with
  | zero => omega
  | succ n ih =>
    obtain rfl | hlt := Nat.eq_or_lt_of_le hk
    · rw [take_length_expandBy, expandBy]
      simpa using take_length_expandBy n (s ++ [expandNext s])
    · exact ih (s := s ++ [expandNext s]) (by simpa using hlt) (by simp; omega)

theorem length_expand {v : List Word} (hv : v.length = 16) : (expand v).length = 80 := by
  rw [expand, length_expandBy, hv]

theorem take_expand {v : List Word} (hv : v.length = 16) : (expand v).take 16 = v := by
  rw [← hv, expand, take_length_expandBy]

theorem take_succ_expand {v : List Word} (hv : v.length = 16) {k : Nat} (hk : 16 ≤ k) (hlt : k < 80) :
    (expand v).take (k + 1) = (expand v).take k ++ [expandNext ((expand v).take k)] :=
  take_succ_expandBy (by omega) (by omega)

/-! ## The rounds (R129) -/

theorem roundsFrom_append_word (i : Nat) (ws : List Word) (w : Word) (v : Five) :
    roundsFrom i (ws ++ [w]) v = round (i + ws.length) w (roundsFrom i ws v) := by
  induction ws generalizing i v with
  | nil => rfl
  | cons x ws ih =>
    rw [List.cons_append, roundsFrom, ih, roundsFrom, List.length_cons]
    congr 1
    omega

/-! ## The blocks (R110, R113, R145) -/

theorem blocksAux_append_block {n : Nat} {p : List Byte} (hp : p.length = 64 * n) (x : List Byte)
    (hx : x.length = 64) : blocksAux (n + 1) (p ++ x) = blocksAux n p ++ [x] := by
  induction n generalizing p with
  | zero =>
    obtain rfl : p = [] := List.length_eq_zero_iff.1 (by omega)
    simp [blocksAux, List.take_of_length_le hx.le]
  | succ n ih =>
    have h64 : 64 ≤ p.length := by omega
    rw [blocksAux, List.take_append_of_le_length h64, List.drop_append_of_le_length h64,
      ih (by rw [List.length_drop]; omega)]
    rfl

/-- R110: a block more at the end is the last window. -/
theorem blocks_append_block {p x : List Byte} (hp : p.length % 64 = 0) (hx : x.length = 64) :
    blocks (p ++ x) = blocks p ++ [x] := by
  have hn : (p ++ x).length / 64 = p.length / 64 + 1 := by
    rw [List.length_append, hx]
    omega
  rw [blocks, hn, blocksAux_append_block (by omega) x hx, blocks]

/-- R145: a block more at the end is compressed into the fold. -/
theorem fold_schedule_append_block {p x : List Byte} (hp : p.length % 64 = 0) (hx : x.length = 64) :
    fold (schedule (p ++ x)) = compress (expand (words x)) (fold (schedule p)) := by
  simp [fold, schedule, blocks_append_block hp hx]

/-! ## The rendering by words (R147) -/

theorem toNat_bits (g : Five) : g.bits.toNat =
    g.a.toNat * 2 ^ 128 + g.b.toNat * 2 ^ 96 + g.c.toNat * 2 ^ 64 + g.d.toNat * 2 ^ 32 + g.e.toNat := by
  simp only [Five.bits, digestBits, toNat_append_eq_mul_add, Five.words]
  simp
  omega

theorem digestWord_bits (g : Five) (i : Fin 5) : digestWord g.bits i = g.words[i.val] := by
  apply BitVec.eq_of_toNat_eq
  rw [digestWord, BitVec.extractLsb'_toNat, Nat.shiftRight_eq_div_pow, toNat_bits]
  match i with
  | 0 | 1 | 2 | 3 | 4 => simp [Five.words]; omega

end Sys2Proof.Machine.Reference
end

section
/-! PROOFS. Block processing (spec 41_scheduler.md R116, 42_compressor.md R133): how far the block in BUF has been
processed, which every step of the core takes one word or one round further. -/

namespace Sys2Proof.Machine

/-! ## How far a block is processed -/

/-- R130: the working registers as five words. -/
def State.working (s : State) : Reference.Five := ⟨s.a, s.b, s.c, s.d, s.e⟩

/-- R116: the schedule of the block in BUF. -/
def State.scheduled (s : State) : List Word := Reference.expand (Reference.words s.buf.toList)

/-- R116: the first `k` words of W are those of the schedule. -/
def State.Loaded (s : State) (k : Nat) : Prop := s.w.toList.take k = s.scheduled.take k

/-- R133: the first `k` rounds have been performed. -/
def State.Rounded (s : State) (k : Nat) : Prop :=
  s.working = Reference.roundsFrom 0 (s.scheduled.take k) s.five

/-- R116, R133: how far the block in BUF has been processed. -/
def State.Progress (s : State) : Prop :=
  match s.ph with
  | .ldw => s.Loaded s.idx.val
  | .exp => s.Loaded s.idx.val
  | .lds => s.Loaded 80
  | .rnd => s.Loaded 80 ∧ s.Rounded s.idx.val
  | .chn => s.Rounded 80
  | _ => True

/-! ## Lists and stores -/

/-- A list read up to `n`, after its entry at `n` was set. -/
theorem take_succ_set {α : Type} {l : List α} {n : Nat} (hn : n < l.length) (x : α) :
    (l.set n x).take (n + 1) = l.take n ++ [x] := by
  rw [List.take_add_one, List.take_set_of_le le_rfl, List.getElem?_set_self hn]
  rfl

theorem toList_take_succ_set {α : Type} {n : Nat} (v : Vector α n) (k : Fin n) (x : α) :
    (v.set k.val x).toList.take (k.val + 1) = v.toList.take k.val ++ [x] := by
  rw [Vector.toList_set, take_succ_set (by simp)]

theorem toList_take_succ {α : Type} {n : Nat} (v : Vector α n) (k : Fin n) :
    v.toList.take (k.val + 1) = v.toList.take k.val ++ [v[k.val]] := by
  simp [List.take_add_one]

/-! ## The schedule of the block (R116) -/

theorem words_take_succ (s : State) (i : Fin 16) :
    (Reference.words s.buf.toList).take (i.val + 1) = (Reference.words s.buf.toList).take i.val ++ [s.bufWord i] := by
  have read (j : Nat) (hj : j < 64) : s.buf.toList.getD j 0#8 = s.buf[j] := by simp [hj]
  have hword : (Reference.words s.buf.toList)[i.val]? = some (s.bufWord i) := by
    rw [Reference.words, List.getElem?_map, List.getElem?_range i.isLt]
    simp (disch := omega) only [Option.map_some, read, State.bufWord, State.bufByte]
  rw [List.take_add_one, hword]
  rfl

theorem length_scheduled (s : State) : s.scheduled.length = 80 := Reference.length_expand (Reference.length_words _)

/-- R114: the first sixteen words of the schedule are those of the block. -/
theorem scheduled_take_succ_of_ldw (s : State) (i : Fin 16) :
    s.scheduled.take (i.val + 1) = s.scheduled.take i.val ++ [s.bufWord i] := by
  have htake (k : Nat) (hk : k ≤ 16) : s.scheduled.take k = (Reference.words s.buf.toList).take k := by
    have h16 := Reference.take_expand (Reference.length_words s.buf.toList)
    rw [← h16, List.take_take, Nat.min_eq_left hk]
    rfl
  rw [htake _ i.isLt, htake _ i.isLt.le, words_take_succ]

/-- R115: the word of index IDX is expanded from the schedule up to it. -/
theorem scheduled_take_succ_of_exp {s : State} (hk : 16 ≤ s.idx.val) (h : s.Loaded s.idx.val) :
    s.scheduled.take (s.idx.val + 1) = s.scheduled.take s.idx.val ++ [s.expandedWord] := by
  have hlen : (s.w.toList.take s.idx.val).length = s.idx.val := by simp
  have read (n : Nat) (hn : 0 < n) :
      (s.w.toList.take s.idx.val).getD (s.idx.val - n) 0#32 = s.w[s.idx.val - n]'(by omega) := by
    have hlt : s.idx.val - n < s.idx.val := by omega
    simp [hlt]
  have hword : Reference.expandNext (s.w.toList.take s.idx.val) = s.expandedWord := by
    rw [Reference.expandNext, hlen, read 3, read 8, read 14, read 16, State.expandedWord] <;> decide
  rw [← hword, h]
  exact Reference.take_succ_expand (Reference.length_words _) hk s.idx.isLt

/-- R114, R115: one word more of the schedule is stored. -/
theorem State.Loaded.setW {s : State} {v : Word} (h : s.Loaded s.idx.val)
    (hv : s.scheduled.take (s.idx.val + 1) = s.scheduled.take s.idx.val ++ [v]) :
    (s.setW s.idx v).Loaded (s.idx.val + 1) := by
  rw [State.Loaded, State.setW_w, toList_take_succ_set, h]
  exact hv.symm

/-! ## The rounds of the block (R133) -/

/-- R131: one round more is performed, with the schedule word of its index. -/
theorem State.Rounded.round {s : State} (hw : s.Loaded 80) (h : s.Rounded s.idx.val) :
    s.round.Rounded (s.idx.val + 1) := by
  have hsched : s.w.toList = s.scheduled := by
    rwa [State.Loaded, List.take_of_length_le (by simp), List.take_of_length_le (length_scheduled s).le] at hw
  have hlen : (s.w.toList.take s.idx.val).length = s.idx.val := by simp
  show Reference.round s.idx.val s.w[s.idx.val] s.working =
    Reference.roundsFrom 0 (s.scheduled.take (s.idx.val + 1)) s.five
  rw [← hsched, toList_take_succ, Reference.roundsFrom_append_word, hlen, Nat.zero_add, hsched, ← h]

/-! ## The progress of a block -/

/-- Every step of the core takes the block in BUF one word or one round further. -/
theorem Performs.progress {i : Instr} {s t : State} (h : Performs i s t) (hi : i.isCommand = false)
    (hs : s.Progress) : t.Progress := by
  cases h with
  | init | wrbOpen | wrbFull | fin | rdw | rdb | rds => cases hi
  | padmOpen hp | padzEnd hp | padzOpen hp | padlOpen hp | latch hp => simp [State.Progress, hp]
  | padmFull | padzFull | padlFull => simp [State.Progress, State.Loaded]
  | @ldwNext _ i hp hk hi =>
    simp only [State.Progress, hp, State.setIdx_ph, State.setW_ph] at hs ⊢
    exact hs.setW (hk ▸ scheduled_take_succ_of_ldw s i)
  | @ldwLast _ i hp hk h15 =>
    simp only [State.Progress, hp] at hs
    have hload := hs.setW (hk ▸ scheduled_take_succ_of_ldw s i)
    rwa [hk, h15] at hload
  | expNext hp hk hi =>
    simp only [State.Progress, hp, State.setIdx_ph, State.setW_ph] at hs ⊢
    exact hs.setW (scheduled_take_succ_of_exp hk hs)
  | expLast hp h79 =>
    simp only [State.Progress, hp] at hs
    have hload := hs.setW (scheduled_take_succ_of_exp (by omega) hs)
    rwa [h79] at hload
  | lds hp hk =>
    simp only [State.Progress, hp] at hs
    exact ⟨hs, rfl⟩
  | rndNext hp hi =>
    simp only [State.Progress, hp, State.setIdx_ph, State.round_ph] at hs ⊢
    obtain ⟨hw, hr⟩ := hs
    exact ⟨hw, hr.round hw⟩
  | rndLast hp h79 =>
    simp only [State.Progress, hp] at hs
    obtain ⟨hw, hr⟩ := hs
    have hround := hr.round hw
    rwa [h79] at hround
  | chn hp hk => cases hr : s.rsm <;> simp [State.Progress, Resume.phase]

end Sys2Proof.Machine
end

section
/-! PROOFS. The core computes the digest (spec 40_padder.md R95 to R98, 43_digest.md R145, R146, R160): a relation
between the state and the message received so far, which every step of the core and every accepted command keeps. -/

namespace Sys2Proof.Machine

/-! ## The relation -/

/-- R95, R145: of the bytes pushed the whole blocks are folded into H, and the rest stands in BUF. -/
def State.Holds (s : State) (p : List Byte) : Prop :=
  ∃ folded, folded.length % 64 = 0 ∧ s.five = Reference.fold (Reference.schedule folded) ∧
    p = folded ++ s.buf.toList.take s.fill.val

/-- R32: the bytes pushed when a block is complete, by where RSM leads. -/
def Resume.Pushed (r : Resume) (m p : List Byte) : Prop :=
  match r with
  | .absorb => p = m
  | .padz => ∃ z, z ≤ Reference.zeroCount m.length ∧ p = Reference.marked m z
  | .latch => p = Reference.pad m

/-- R90: the bytes pushed in the phase of `s`, of the padded message `m`. -/
def State.Pushed (s : State) (m p : List Byte) : Prop :=
  match s.ph with
  | .absorb => p = m
  | .padm => p = m
  | .padz => Resume.padz.Pushed m p
  | .padl => p = Reference.lengthened m s.idx.val
  | .ldw => s.rsm.Pushed m p
  | .exp => s.rsm.Pushed m p
  | .lds => s.rsm.Pushed m p
  | .rnd => s.rsm.Pushed m p
  | .chn => s.rsm.Pushed m p
  | .latch => p = Reference.pad m
  | .done => p = Reference.pad m
  | .idle => False
  | .fault => False

/-- The core computes the digest of a message of which it has received the bytes `m`. -/
structure State.Computes (s : State) (m : List Byte) : Prop where
  inv : s.Inv
  short : m.length < 2 ^ 61
  count : s.bitlen = BitVec.ofNat 64 (8 * m.length)
  pushed : ∃ p, s.Pushed m p ∧ s.Holds p
  progress : s.Progress
  latched : s.ph = .done → s.digest = digestBits s.h

/-! ## The bytes pushed (R95) -/

theorem State.Holds.length_mod {s : State} {p : List Byte} (h : s.Holds p) : p.length % 64 = s.fill.val % 64 := by
  obtain ⟨folded, hmod, -, rfl⟩ := h
  have hfill := s.fill.isLt
  rw [List.length_append, List.length_take, Vector.length_toList]
  omega

/-- R95. -/
theorem State.Holds.store {s : State} {p : List Byte} (h : s.Holds p) (v : Byte) (hf : s.fill.val < 64) :
    (s.store v hf).Holds (p ++ [v]) := by
  obtain ⟨folded, hmod, hfold, rfl⟩ := h
  refine ⟨folded, hmod, hfold, ?_⟩
  rw [State.store_fill_val, State.store_buf, toList_take_succ_set s.buf ⟨s.fill.val, hf⟩, List.append_assoc]

/-- R132, R145: CHN folds the block into H and leaves BUF empty. -/
theorem Performs.holds_chn {s t : State} {p : List Byte} (h : Performs .chn s t) (hf : s.fill.val = 64)
    (hp : s.Holds p) (hr : s.Rounded 80) : t.Holds p := by
  cases h with
  | chn =>
    obtain ⟨folded, hmod, hfold, rfl⟩ := hp
    have hlen : s.buf.toList.length = 64 := by simp
    rw [hf, List.take_of_length_le hlen.le]
    refine ⟨folded ++ s.buf.toList, by simp; omega, ?_, by simp⟩
    rw [State.Rounded, List.take_of_length_le (length_scheduled s).le] at hr
    rw [Reference.fold_schedule_append_block hmod hlen, ← hfold]
    show _ = Reference.compress s.scheduled s.five
    rw [Reference.compress, ← hr]
    rfl

/-! ## The bytes of the padding (R96 to R98) -/

/-- R132: where CHN leads, the bytes pushed are those RSM stands for. -/
theorem pushed_goto_resume (s : State) (r : Resume) (k : Fin 80) (m p : List Byte) :
    (s.goto r.phase k).Pushed m p ↔ r.Pushed m p := by
  cases r <;> exact Iff.rfl

/-- R97: the zero-fill ends at FILL = 56 with the last zero byte. -/
theorem eq_zeroCount_iff_fill {s : State} {m : List Byte} {z : Nat} (hz : z ≤ Reference.zeroCount m.length)
    (h : s.Holds (Reference.marked m z)) (hf : s.fill.val < 64) :
    s.fill.val = 56 ↔ z = Reference.zeroCount m.length := by
  rw [← Reference.marked_length_mod_eq_iff hz, ← Reference.length_marked, h.length_mod, Nat.mod_eq_of_lt hf]

/-- R97: where FILL is not 56 another zero byte belongs to the padding. -/
theorem pushed_zero {s : State} {m p : List Byte} (hp : Resume.padz.Pushed m p) (h : s.Holds p)
    (hf : s.fill.val < 64) (hne : s.fill.val ≠ 56) : Resume.padz.Pushed m (p ++ [0x00#8]) := by
  obtain ⟨z, hz, rfl⟩ := hp
  have hlast := (eq_zeroCount_iff_fill hz h hf).not.1 hne
  exact ⟨z + 1, by omega, (Reference.marked_succ m z).symm⟩

/-! ## The steps of the core -/

/-- Every step of the core pushes the next byte of the padded message, folds a block, or leaves both as they are. -/
theorem Performs.exists_pushed {i : Instr} {s t : State} {m : List Byte} (h : Performs i s t)
    (hi : i.isCommand = false) (hs : s.Computes m) : ∃ p, t.Pushed m p ∧ t.Holds p := by
  obtain ⟨p, hp, hholds⟩ := hs.pushed
  have hprog := hs.progress
  have hstage := h
  cases h with simp only [State.Pushed, *] at hp
  | init | wrbOpen | wrbFull | fin | rdw | rdb | rds => cases hi
  | padmOpen hph hk hf => exact ⟨_, ⟨0, Nat.zero_le _, hp ▸ rfl⟩, hholds.store _ (Nat.lt_succ_of_lt hf)⟩
  | padmFull hph hk hf => exact ⟨_, ⟨0, Nat.zero_le _, hp ▸ rfl⟩, hholds.store _ (Nat.lt_succ_of_le hf.le)⟩
  | padzEnd hph hk hf =>
    obtain ⟨z, hz, rfl⟩ := hp
    obtain rfl := (eq_zeroCount_iff_fill hz hholds (by omega)).1 hf
    exact ⟨_, (Reference.lengthened_zero m).symm, hholds⟩
  | padzOpen hph hk hf hne =>
    refine ⟨_, ?_, hholds.store _ (Nat.lt_succ_of_lt hf)⟩
    simpa only [State.Pushed, State.store_ph, hph] using pushed_zero hp hholds (by omega) hne
  | padzFull hph hk hf =>
    exact ⟨_, pushed_zero hp hholds (by omega) (by omega), hholds.store _ (Nat.lt_succ_of_le hf.le)⟩
  | @padlOpen _ k hph hk hf =>
    refine ⟨_, ?_, hholds.store _ (Nat.lt_succ_of_lt hf)⟩
    simp only [State.Pushed, State.setIdx_ph, State.store_ph, hph, State.setIdx_idx, hk, hp, hs.count,
      Reference.lengthened_succ]
  | @padlFull _ k hph hk hf =>
    obtain ⟨hfill, -⟩ := hs.inv.fill_of_padl hph
    have hlast : k.val + 1 = 8 := by omega
    refine ⟨_, ?_, hholds.store _ (Nat.lt_succ_of_le hf.le)⟩
    rw [hp, hs.count, ← Reference.lengthened_succ, hlast]
    exact Reference.lengthened_eight m
  | ldwNext hph | expNext hph | rndNext hph => exact ⟨p, by simpa [State.Pushed, hph] using hp, hholds⟩
  | ldwLast hph | expLast hph | lds hph | rndLast hph | latch hph => exact ⟨p, hp, hholds⟩
  | chn hph hk =>
    simp only [State.Progress, hph] at hprog
    obtain ⟨hf, -⟩ := hs.inv.block_of_inBlock (by rw [hph]; rfl)
    exact ⟨p, (pushed_goto_resume _ _ _ _ _).2 hp, hstage.holds_chn hf hholds hprog⟩

/-- R27: no step of the core writes BITLEN. -/
theorem Performs.bitlen_eq {i : Instr} {s t : State} (h : Performs i s t) (hi : i.isCommand = false) :
    t.bitlen = s.bitlen := by
  refine h.frame (r := .bitlen) fun hw => ?_
  obtain rfl | ⟨d, rfl⟩ := eq_init_or_wrb_of_bitlen_mem_writesOf hw <;> cases hi

/-- R148: the only way into DONE latches the digest. -/
theorem Performs.latched {i : Instr} {s t : State} (h : Performs i s t) (hi : i.isCommand = false)
    (hd : t.ph = .done) : t.digest = digestBits t.h := by
  cases h with
  | latch => rfl
  | chn => cases hr : s.rsm <;> simp [hr, Resume.phase] at hd
  | init | wrbOpen | wrbFull | fin | rdw | rdb | rds => cases hi
  | _ => simp_all

theorem CoreStep.computes {s t : State} {m : List Byte} (h : CoreStep s t) (hs : s.Computes m) : t.Computes m := by
  obtain ⟨i, hsel, -, hp⟩ := h
  have hi := isCommand_of_selects hsel
  have hcount := (hp.bitlen_eq hi).trans hs.count
  exact ⟨hp.inv hs.inv, hs.short, hcount, hp.exists_pushed hi hs, hp.progress hi hs.progress, hp.latched hi⟩

/-! ## Where the message is still open -/

/-- A byte more can come: the message is open, or a block of it is being processed. -/
def State.Receiving (s : State) : Prop := s.ph = .absorb ∨ (s.ph.inBlock = true ∧ s.rsm = .absorb)

theorem CoreStep.receiving_iff {s t : State} (h : CoreStep s t) : t.Receiving ↔ s.Receiving := by
  obtain ⟨i, hsel, -, hp⟩ := h
  have hi := isCommand_of_selects hsel
  cases hp with
  | init | wrbOpen | wrbFull | fin | rdw | rdb | rds => cases hi
  | chn hp => cases hr : s.rsm <;> simp [State.Receiving, Phase.inBlock, Resume.phase, hp, hr]
  | padmOpen hp | padmFull hp | padzEnd hp | padzOpen hp | padzFull hp | padlOpen hp | padlFull hp | ldwNext hp
  | ldwLast hp | expNext hp | expLast hp | lds hp | rndNext hp | rndLast hp | latch hp =>
    simp [State.Receiving, Phase.inBlock, hp]

theorem absorb_of_receiving {s : State} (hb : s.ph.busy = false) (hr : s.Receiving) : s.ph = .absorb := by
  cases hp : s.ph <;> simp [State.Receiving, Phase.inBlock, Phase.busy, hp] at hr hb ⊢

section
variable {s : State} {m : List Byte} (hs : s.Computes m) (hb : s.ph.busy = false) (hr : ¬ s.Receiving)
include hs hb hr

theorem State.Computes.done_of_not_receiving : s.ph = .done := by
  obtain ⟨p, hpushed, -⟩ := hs.pushed
  cases hp : s.ph <;> simp [State.Receiving, State.Pushed, Phase.busy, hp] at hr hb hpushed ⊢

/-- R145, R146: in DONE the register DIGEST holds the digest of the message. -/
theorem State.Computes.digest_eq : s.digest = (Reference.digest m).bits := by
  have hp := hs.done_of_not_receiving hb hr
  obtain ⟨p, hpushed, folded, -, hfold, hbytes⟩ := hs.pushed
  have hfill : s.fill.val = 0 := by simpa [State.phaseInv, hp] using hs.inv.phase
  have hpad : folded = Reference.pad m := by
    simpa [State.Pushed, hp, hfill, eq_comm, hbytes] using hpushed
  rw [Reference.digest, ← hpad, ← hfold]
  exact hs.latched hp

end

/-! ## The commands -/

/-- R74: the command at the port was answered with (1, 0). -/
def AnsweredZero (s t : State) : Prop :=
  t.port = none ∧ t.turns = s.turns ∧ t.responses = s.responses ++ [⟨true, 0#32⟩]

/-- What the host does at the port changes nothing of a computation. -/
theorem State.Computes.of_sameCore {s t : State} {m : List Byte} (hs : s.Computes m) (h : SameCore s t) :
    t.Computes m := by
  obtain ⟨p, r, rfl⟩ := h
  exact ⟨hs.inv.of_sameCore ⟨p, r, rfl⟩, hs.short, hs.count, hs.pushed, hs.progress, hs.latched⟩

theorem State.Computes.respond {s : State} {m : List Byte} (hs : s.Computes m) (ok : Bool) (data : Word) :
    (s.respond ok data).Computes m :=
  ⟨hs.inv.respond ok data, hs.short, hs.count, hs.pushed, hs.progress, hs.latched⟩

/-- R92: INIT opens the computation of the empty message. -/
theorem exec_init_computes {s : State} (hs : s.seqLegal = true) (hb : s.ph.busy = false) :
    ∃ t, exec .init s = .next t ∧ t.Computes [] ∧ t.Receiving ∧ AnsweredZero s t := by
  have hlegal : Phase.takesInit s.ph = true := by
    cases hp : s.ph <;> simp [hp, Phase.busy, Phase.takesInit] at hb ⊢
  have hinv : s.openComputation.Inv :=
    ⟨rfl, show 0 = 0 / 8 % 64 by rfl, fun _ _ => rfl, by simp, by simp⟩
  have hempty : s.openComputation.Computes [] :=
    ⟨hinv, by decide, rfl, ⟨[], rfl, [], rfl, rfl, rfl⟩, trivial, nofun⟩
  exact ⟨_, accept_legal hs hlegal, hempty.respond true 0#32, .inl rfl, rfl, rfl, rfl⟩

section
variable {s : State} {m : List Byte} (hs : s.Computes m) (hp : s.ph = .absorb)
include hs hp

/-- R93: one byte more of the message is pushed and counted. -/
theorem State.Computes.exec_wrb (d : Byte) (hlen : m.length + 1 < 2 ^ 61) :
    ∃ t, exec (.wrb d) s = .next t ∧ t.Computes (m ++ [d]) ∧ t.Receiving ∧ AnsweredZero s t := by
  have hk := idx_eq_zero_of_seqLegal hs.inv.seq (by rw [hp]; rfl)
  have hbits : s.bitlen ≠ 0xFFFFFFFFFFFFFFF8#64 := by
    rw [hs.count, Ne, ← BitVec.toNat_inj, BitVec.toNat_ofNat, BitVec.toNat_ofNat]
    omega
  have hshort : (m ++ [d]).length < 2 ^ 61 := by simpa using hlen
  have hcount : s.countByte.bitlen = BitVec.ofNat 64 (8 * (m ++ [d]).length) := by
    rw [State.countByte_bitlen, hs.count, List.length_append, List.length_singleton, Nat.mul_add, BitVec.ofNat_add]
  obtain ⟨p, hpushed, hholds⟩ := hs.pushed
  obtain rfl : p = m := by simpa only [State.Pushed, hp] using hpushed
  have hstore (hf : s.fill.val < 64) : (s.countByte.store d hf).Holds (p ++ [d]) :=
    State.Holds.store (s := s.countByte) hholds d hf
  obtain ⟨t, ht⟩ := hs.inv.exec_has_next (i := .wrb d) (.inl rfl)
  refine ⟨t, ht, ?_⟩
  obtain ⟨-, ⟨-, hmax, -⟩ | ⟨-, -, hf, rfl⟩ | ⟨-, -, hf, rfl⟩ | ⟨hl, -⟩⟩ := execWrb_next ht
  · exact absurd hmax hbits
  · have hinv := (Performs.wrbOpen (d := d) hp hk hbits hf).inv hs.inv
    refine ⟨⟨hinv, hshort, hcount, ⟨_, ?_, hstore (by omega)⟩, ?_, ?_⟩, .inl hp, rfl, rfl, rfl⟩
    · simp [State.Pushed, hp]
    · simp [State.Progress, hp]
    · simp [hp]
  · have hinv := (Performs.wrbFull (d := d) hp hk hbits hf).inv hs.inv
    refine ⟨⟨hinv, hshort, hcount, ⟨_, rfl, hstore (by omega)⟩, ?_, nofun⟩, .inr ⟨rfl, rfl⟩, rfl, rfl, rfl⟩
    simp [State.Progress, State.Loaded]
  · simp [hp] at hl

/-- R94: the end of the message. -/
theorem State.Computes.exec_fin :
    ∃ t, exec .fin s = .next t ∧ t.Computes m ∧ ¬ t.Receiving ∧ AnsweredZero s t := by
  have hinv := (Performs.fin hp (idx_eq_zero_of_seqLegal hs.inv.seq (by rw [hp]; rfl))).inv hs.inv
  obtain ⟨p, hpushed, hholds⟩ := hs.pushed
  obtain rfl : p = m := by simpa only [State.Pushed, hp] using hpushed
  have hexec : exec .fin s = .next (State.respond { s with ph := .padm } true 0#32) :=
    accept_legal (legal := fun p => decide (p = .absorb)) hs.inv.seq (decide_eq_true hp)
  exact ⟨_, hexec, ⟨hinv, hs.short, hs.count, ⟨p, rfl, hholds⟩, trivial, nofun⟩,
    by simp [State.Receiving, Phase.inBlock], rfl, rfl, rfl⟩

end

/-- R149: in DONE the word read is the word of the digest. -/
theorem State.Computes.exec_rdw {s : State} {m : List Byte} (hs : s.Computes m) (hb : s.ph.busy = false)
    (hr : ¬ s.Receiving) (i : Fin 5) :
    exec (.rdw i) s = .next (s.respond true (Reference.digest m).words[i.val]) := by
  have hp := hs.done_of_not_receiving hb hr
  rw [← Reference.digestWord_bits, ← hs.digest_eq hb hr]
  exact accept_legal (legal := fun p => decide (p = .done)) hs.inv.seq (decide_eq_true hp)

end Sys2Proof.Machine
end

section
/-! PROOFS. The program of a digest (spec 30_encoding.md R82, 43_digest.md R160): a host that is granted every step and
runs `MSG` and `RDD`. -/

namespace Sys2Proof.Machine

/-! ## Runs of the host -/

/-- Some number of steps, all granted to the host, lead from one state of the pair to the other. -/
def HostRuns (d e : Driven) : Prop := ∃ n, Driven.run (List.replicate n .host) d = .next e

theorem HostRuns.refl (d : Driven) : HostRuns d d := ⟨0, rfl⟩

theorem HostRuns.head {d e f : Driven} (h : d.step .host = .next e) (hr : HostRuns e f) : HostRuns d f := by
  obtain ⟨n, hn⟩ := hr
  exact ⟨n + 1, (driven_run_cons h).trans hn⟩

theorem HostRuns.trans {d e f : Driven} (h : HostRuns d e) (hr : HostRuns e f) : HostRuns d f := by
  obtain ⟨n, hn⟩ := h
  obtain ⟨k, hk⟩ := hr
  exact ⟨n + k, by rw [List.replicate_add, driven_run_append hn, hk]⟩

/-! ## The word at the port -/

/-- The word `w` has been presented and no turn is left. -/
def State.presents (s : State) (w : CmdWord) : State := { s with port := some w, turns := [] }

theorem sameCore_presents (s : State) (w : CmdWord) : SameCore s (s.presents w) := ⟨_, _, rfl⟩

/-- A word waits at the port and no turn is left. -/
def State.Waits (s : State) (w : CmdWord) : Prop := s.port = some w ∧ s.turns = []

theorem waits_presents (s : State) (w : CmdWord) : (s.presents w).Waits w := ⟨rfl, rfl⟩

/-- At a free port the host presents its next word, which is done with. -/
theorem driven_step_presents {s t : State} {w : CmdWord} (rest : List HostOp) (hport : s.port = none)
    (h : step (s.presents w) = .next t) : Driven.step .host ⟨.send w :: rest, s⟩ = .next ⟨rest, t⟩ := by
  have hturns : Driven.hostTurns ⟨.send w :: rest, s⟩ = [.command w] :=
    hostTurns_free (d := ⟨.send w :: rest, s⟩) hport rfl
  have hstep : step { s with turns := Driven.hostTurns ⟨.send w :: rest, s⟩ } = step (s.presents w) := by
    rw [hturns]
    simp [step, State.nextMove, State.presents, hport]
  rw [driven_step_host (hstep.trans h), progAfter_send (d := ⟨.send w :: rest, s⟩) t hport rfl]

section
variable {s t : State} {w : CmdWord} {i : Instr} (hwait : s.Waits w)
include hwait

/-- While a word waits the host presents nothing. -/
theorem driven_step_waits (rest : List HostOp) (h : step s = .next t) :
    Driven.step .host ⟨rest, s⟩ = .next ⟨rest, t⟩ := by
  obtain ⟨hport, ht⟩ := hwait
  have hturns : { s with turns := Driven.hostTurns ⟨rest, s⟩ } = s := by
    rw [hostTurns_outstanding (d := ⟨rest, s⟩) hport, ← ht]
  rw [driven_step_host (hturns ▸ h), progAfter_outstanding _ hport]

/-- The word at the port waits while the core takes a step. -/
theorem step_of_waits_held (hw : w ≠ 0x5000#16) (h : CoreStep s t) : step s = .next t := by
  obtain ⟨hport, ht⟩ := hwait
  obtain ⟨i, hsel, he, -⟩ := h
  exact (step_of_delivers_held (.inl ⟨hport, .inl ht, rfl⟩) hw hsel).trans he

/-- The word at the port is run where the core is not busy. -/
theorem step_of_waits_legal (hd : decodeCommand w = .ok i) (hb : s.ph.busy = false) : step s = exec i s := by
  obtain ⟨hport, ht⟩ := hwait
  exact step_of_delivers_legal (.inl ⟨hport, .inl ht, rfl⟩) hd (.inr hb)

end

/-- The core's own steps leave the word waiting. -/
theorem CoreStep.waits {s t : State} {w : CmdWord} (h : CoreStep s t) (hwait : s.Waits w) : t.Waits w := by
  obtain ⟨hturns, -, hport, -⟩ := h.silent
  obtain ⟨hport', hturns'⟩ := hwait
  exact ⟨hport.trans hport', hturns.trans hturns'⟩

/-- R80, R194: a word at the port is run in the end, after the steps that the core has left. -/
theorem State.Computes.hostRuns_waits {s : State} {m : List Byte} {w : CmdWord} {i : Instr} (rest : List HostOp)
    (hs : s.Computes m) (hwait : s.Waits w) (hd : decodeCommand w = .ok i) (hw : w ≠ 0x5000#16) :
    ∃ v, v.Computes m ∧ (v.Receiving ↔ s.Receiving) ∧ v.ph.busy = false ∧ v.responses = s.responses ∧
      ∀ t, exec i v = .next t → ∃ u, step s = .next u ∧ HostRuns ⟨rest, u⟩ ⟨rest, t⟩ := by
  cases hb : s.ph.busy
  · exact ⟨s, hs, .rfl, hb, rfl, fun t he => ⟨t, (step_of_waits_legal hwait hd hb).trans he, .refl _⟩⟩
  · obtain ⟨u, hu⟩ := hs.inv.exists_coreStep hb
    have hleft := hu.stepsLeft_succ hs.inv
    have hwait' := hu.waits hwait
    obtain ⟨-, -, -, hresp⟩ := hu.silent
    obtain ⟨v, hv, hreceive, hvb, hvr, hrun⟩ := hostRuns_waits rest (hu.computes hs) hwait' hd hw
    refine ⟨v, hv, hreceive.trans hu.receiving_iff, hvb, hvr.trans hresp, fun t he => ?_⟩
    obtain ⟨u', hstep, hruns⟩ := hrun t he
    exact ⟨u, step_of_waits_held hwait hw hu, hruns.head (driven_step_waits hwait' rest hstep)⟩
termination_by s.stepsLeft

/-- R82: a word of the program is presented at a free port and run in the end. -/
theorem State.Computes.hostRuns_send {s : State} {m : List Byte} {w : CmdWord} {i : Instr} (rest : List HostOp)
    (hs : s.Computes m) (hport : s.port = none) (hd : decodeCommand w = .ok i) (hi : i ≠ .rds) :
    ∃ v, v.Computes m ∧ (v.Receiving ↔ s.Receiving) ∧ v.ph.busy = false ∧ v.responses = s.responses ∧
      ∀ t, exec i v = .next t → HostRuns ⟨.send w :: rest, s⟩ ⟨rest, t⟩ := by
  have hw : w ≠ 0x5000#16 := by
    rintro rfl
    cases hd
    exact hi rfl
  obtain ⟨v, hv, hreceive, hb, hr, hrun⟩ :=
    (hs.of_sameCore (sameCore_presents s w)).hostRuns_waits rest (waits_presents s w) hd hw
  refine ⟨v, hv, hreceive, hb, hr, fun t he => ?_⟩
  obtain ⟨u, hstep, hruns⟩ := hrun t he
  exact hruns.head (driven_step_presents rest hport hstep)

/-! ## The message -/

/-- R82: the words of a text, one WRB for each byte. -/
def bytesWords (l : List Byte) : List HostOp := l.map fun d => .send (0x10#8 ++ d)

/-- R149: the words of a read of these words of the digest. -/
def readWords (l : List (Fin 5)) : List HostOp := l.map fun i => .send (0x0600#13 ++ BitVec.ofNat 3 i.val)

/-- R93: the bytes of a message are answered with (1, 0) each. -/
theorem State.Computes.hostRuns_bytes {s : State} {m : List Byte} (l : List Byte) (rest : List HostOp)
    (hs : s.Computes m) (hr : s.Receiving) (hport : s.port = none) (hlen : m.length + l.length < 2 ^ 61) :
    ∃ t, HostRuns ⟨bytesWords l ++ rest, s⟩ ⟨rest, t⟩ ∧ t.Computes (m ++ l) ∧ t.Receiving ∧ t.port = none ∧
      t.responses = s.responses ++ List.replicate l.length ⟨true, 0#32⟩ := by
  induction l generalizing s m with
  | nil => exact ⟨s, .refl _, by simpa using hs, hr, hport, by simp⟩
  | cons d l ih =>
    rw [List.length_cons] at hlen
    obtain ⟨v, hv, hreceive, hb, hvr, hrun⟩ := hs.hostRuns_send (bytesWords l ++ rest) hport
      (decodeCommand_wrb d) nofun
    obtain ⟨u, he, hu, hur, huport, -, hresp⟩ :=
      hv.exec_wrb (absorb_of_receiving hb (hreceive.2 hr)) d (by omega)
    obtain ⟨t, hruns, ht, htr, htport, htresp⟩ := ih hu hur huport (by simp; omega)
    refine ⟨t, (hrun u he).trans hruns, by simpa using ht, htr, htport, ?_⟩
    simp [htresp, hresp, hvr, List.replicate_succ]

/-- R149: the reads after FIN are answered with words of the digest. -/
theorem State.Computes.hostRuns_reads {s : State} {m : List Byte} (l : List (Fin 5)) (hs : s.Computes m)
    (hr : ¬ s.Receiving) (hport : s.port = none) :
    ∃ t, HostRuns ⟨readWords l, s⟩ ⟨[], t⟩ ∧ t.port = none ∧
      t.responses = s.responses ++ l.map fun i => ⟨true, (Reference.digest m).words[i.val]⟩ := by
  induction l generalizing s with
  | nil => exact ⟨s, .refl _, hport, by simp⟩
  | cons i l ih =>
    have hd : decodeCommand (0x0600#13 ++ BitVec.ofNat 3 i.val) = .ok (.rdw i) := decodeOfEncode (.rdw i) rfl
    obtain ⟨v, hv, hreceive, hb, hvr, hrun⟩ :=
      hs.hostRuns_send (readWords l) hport hd nofun
    have hclosed := hreceive.not.2 hr
    obtain ⟨t, hruns, htport, htresp⟩ := ih (hv.respond true _) hclosed rfl
    refine ⟨t, (hrun _ (hv.exec_rdw hb hclosed i)).trans hruns, htport, ?_⟩
    simp [htresp, hvr]

/-- R160: INIT, the bytes of a message, FIN and reads, from every state that is not busy. -/
theorem hostRuns_digest {s : State} (m : List Byte) (l : List (Fin 5)) (hs : s.seqLegal = true)
    (hb : s.ph.busy = false) (hport : s.port = none) (hlen : m.length < 2 ^ 61) :
    ∃ t, HostRuns ⟨.send 0x0000#16 :: bytesWords m ++ .send 0x2000#16 :: readWords l, s⟩ ⟨[], t⟩ ∧ t.port = none ∧
      t.responses = s.responses ++ List.replicate (m.length + 2) ⟨true, 0#32⟩ ++
        l.map fun i => ⟨true, (Reference.digest m).words[i.val]⟩ := by
  have hinit : step (s.presents 0x0000#16) = exec .init (s.presents 0x0000#16) :=
    step_of_waits_legal (waits_presents s _) rfl hb
  obtain ⟨u, he, hu, hur, huport, -, hresp⟩ := exec_init_computes (s := s.presents 0x0000#16) hs hb
  have hfirst := driven_step_presents (bytesWords m ++ .send 0x2000#16 :: readWords l) hport (hinit.trans he)
  obtain ⟨v, hbytes, hv, hvr, hvport, hvresp⟩ :=
    hu.hostRuns_bytes m (.send 0x2000#16 :: readWords l) hur huport (by simpa using hlen)
  obtain ⟨x, hx, hxr, hxb, hxresp, hrun⟩ := hv.hostRuns_send (w := 0x2000#16) (i := .fin) (readWords l) hvport rfl nofun
  obtain ⟨y, hfin, hy, hyr, hyport, -, hyresp⟩ := hx.exec_fin (absorb_of_receiving hxb (hxr.2 hvr))
  obtain ⟨t, hreads, htport, htresp⟩ := hy.hostRuns_reads l hyr hyport
  refine ⟨t, (hbytes.trans ((hrun y hfin).trans hreads)).head hfirst, htport, ?_⟩
  have hzeros : List.replicate (m.length + 2) (⟨true, 0#32⟩ : Response) =
      ⟨true, 0#32⟩ :: List.replicate m.length ⟨true, 0#32⟩ ++ [⟨true, 0#32⟩] := by
    rw [List.replicate_succ', List.replicate_succ]
  simp [htresp, hyresp, hxresp, hvresp, hresp, hzeros, State.presents]

/-! ## The program -/

theorem map_send_eq_bytesWords {text : List Char} (h : text.all textChar = true) :
    (text.map fun c => HostOp.send (BitVec.ofNat 16 (0x1000 + c.toNat))) =
      bytesWords (text.map fun c => BitVec.ofNat 8 c.toNat) := by
  rw [bytesWords, List.map_map]
  refine List.map_congr_left fun c hc => congrArg HostOp.send ?_
  exact (append_ofNat_eq_ofNat_add (toNat_lt_of_textChar (List.all_eq_true.1 h c hc))).symm

theorem expand_rdd_eq_readWords : Asm.rdd.expand = some (readWords (List.finRange 5)) := rfl

theorem map_words_eq {α : Type} (f : Word → α) (g : Reference.Five) :
    g.words.toList.map f = (List.finRange 5).map fun i => f g.words[i.val] := rfl

/-- Settles O56: the expansions are the words of `hostRuns_digest`. -/
theorem programOfADigest : Obligations.ProgramOfADigest := by
  intro text s htext hlen hs hb hport
  obtain ⟨t, ⟨n, hn⟩, htport, htresp⟩ :=
    hostRuns_digest (text.map fun c => BitVec.ofNat 8 c.toNat) (List.finRange 5) hs hb hport (by simpa using hlen)
  refine ⟨_, _, n, ⟨[], t⟩, expand_msg_of_all htext, expand_rdd_eq_readWords, ?_, rfl, htport, ?_⟩
  · rw [map_send_eq_bytesWords htext]
    simpa using hn
  · rw [htresp, List.length_map, map_words_eq]

end Sys2Proof.Machine
end

section
/-! PROOFS. The padder of spec/40_padder.md: the commands of message intake (R92 to R94), the padding micro-operations
(R96 to R98), the push that has no room (R95), and the properties of the padding (R91). -/

namespace Sys2Proof.Machine

/-! ## A command by its phases (R80) -/

theorem seqLegal_of_idx_zero {s : State} (hb : s.ph.busy = false) (hk : s.idx = 0) : s.seqLegal = true := by
  simp [seqLegal_of_not_busy hb, hk]

section

variable {i : Instr} {legal : Phase → Bool} {op : State → Outcome}
  (hexec : ∀ s, exec i s = s.accept legal .protocol (op s))

include hexec

theorem heldWhileBusy_of_accept (hl : ∀ p : Phase, p.busy = true → legal p = false) : Claims.HeldWhileBusy i :=
  fun s hs hb => (hexec s).trans (accept_held hs (hl s.ph hb) hb)

theorem refusedInFault_of_accept (hl : legal .fault = false) : Claims.RefusedInFault i := by
  intro s hp hk
  have hs : s.seqLegal = true := seqLegal_of_idx_zero (hp ▸ rfl) hk
  rw [hexec, accept_refused hs (hp ▸ hl) hp, refuseInFault_eq_answered]

theorem protocolIn_of_accept {p : Phase} (hl : legal p = false) (hb : p.busy = false) (hf : p ≠ .fault) :
    Claims.ProtocolIn i p := by
  rintro s rfl hk
  rw [hexec, accept_raise (seqLegal_of_idx_zero hb hk) hl hb hf, raiseCommand_eq_faulted]

theorem exec_legal_of_accept {s : State} (hl : legal s.ph = true) (hb : s.ph.busy = false) (hk : s.idx = 0) :
    exec i s = op s :=
  (hexec s).trans (accept_legal (seqLegal_of_idx_zero hb hk) hl)

end

/-! ## INIT (R92) -/

theorem takesInit_eq_not_busy (p : Phase) : p.takesInit = !p.busy := by
  cases p <;> rfl

/-- Settles O14: INIT is legal in exactly the phases that are not busy. -/
theorem initRule : Obligations.InitRule := by
  have hexec (s : State) : exec .init s = s.accept Phase.takesInit .protocol
      (.next (s.openComputation.respond true 0#32)) := rfl
  have hheld (p : Phase) (hb : p.busy = true) : p.takesInit = false := by simp [takesInit_eq_not_busy, hb]
  refine ⟨decodeOfEncode .init rfl, heldWhileBusy_of_accept hexec hheld, ?_⟩
  intro s hk hp
  have hb : s.ph.busy = false := by
    rcases hp with hp | hp | hp | hp <;> rw [hp] <;> rfl
  exact exec_legal_of_accept hexec (by simp [takesInit_eq_not_busy, hb]) hb hk

/-! ## The push (R95) -/

/-- R95: the 64th byte of a block is `BUF[63]`. -/
theorem pushOr_last {s : State} {v : Byte} {r : Resume} {closed stay : State → State} (hf : s.fill.val = 63) :
    s.pushOr v r closed stay = .next (closed { s with
      buf := s.buf.set 63 v, fill := 64, rsm := r, ph := .ldw, idx := 0 }) := by
  rw [pushOr_completes hf]
  simp [hf]

/-! ## WRB and FIN (R93, R94) -/

theorem absorb_only_of_busy (p : Phase) (hb : p.busy = true) : decide (p = .absorb) = false :=
  decide_eq_false fun hp => by simp [hp, Phase.busy] at hb

/-- R93: what WRB does where it is legal. -/
def State.takeByte (d : Byte) (s : State) : Outcome :=
  if s.bitlen = 0xFFFFFFFFFFFFFFF8#64 then .next (s.raiseCommand .lenOverflow)
  else s.countByte.pushOr d .absorb (fun t => t.respond true 0#32) (fun t => t.respond true 0#32)

theorem exec_wrb_eq_accept (d : Byte) (s : State) :
    exec (.wrb d) s = s.accept (fun p => decide (p = .absorb)) .protocol (s.takeByte d) := rfl

theorem exec_wrb_of_absorb {s : State} (d : Byte) (hp : s.ph = .absorb) (hk : s.idx = 0) :
    exec (.wrb d) s = s.takeByte d :=
  exec_legal_of_accept (exec_wrb_eq_accept d) (by simp [hp]) (hp ▸ rfl) hk

/-- Settles O15: in ABSORB the byte overflows the length, or leaves the block open, or completes it. -/
theorem wrbRule : Obligations.WrbRule := by
  intro d
  have hexec := exec_wrb_eq_accept d
  refine ⟨decodeCommand_wrb d, heldWhileBusy_of_accept hexec absorb_only_of_busy, refusedInFault_of_accept hexec rfl,
    protocolIn_of_accept hexec rfl rfl nofun, protocolIn_of_accept hexec rfl rfl nofun, ?_⟩
  intro s hp hk
  rw [exec_wrb_of_absorb d hp hk, State.takeByte]
  refine ⟨fun hover => ?_, fun hroom hf => ?_, fun hroom hf => ?_⟩
  · rw [if_pos hover, raiseCommand_eq_faulted]
  · rw [if_neg hroom, pushOr_open (s := s.countByte) hf]
    rfl
  · rw [if_neg hroom, pushOr_last (s := s.countByte) hf]
    rfl

/-- Settles O16: FIN is legal in ABSORB only. -/
theorem finRule : Obligations.FinRule := by
  have hexec (s : State) : exec .fin s = s.accept (fun p => decide (p = .absorb)) .protocol
      (.next ({ s with ph := .padm }.respond true 0#32)) := rfl
  refine ⟨decodeOfEncode .fin rfl, heldWhileBusy_of_accept hexec absorb_only_of_busy,
    refusedInFault_of_accept hexec rfl, protocolIn_of_accept hexec rfl rfl nofun,
    protocolIn_of_accept hexec rfl rfl nofun, ?_⟩
  intro s hp hk
  exact exec_legal_of_accept hexec (by simp [hp]) (hp ▸ rfl) hk

/-! ## The padding micro-operations (R96 to R98) -/

theorem decodeSeq_of_selects {s : State} {i : Instr} (h : s.selects i = true) : decodeSeq s.seqWord = .ok i := by
  rw [decodeSeq_seqWord, (selects_iff s i).1 h]

theorem exec_padm_of_selects {s : State} (h : s.selects .padm = true) :
    exec .padm s = s.pushOr 0x80#8 .padz (fun t => t) (fun t => { t with ph := .padz }) :=
  perform_selected h

theorem exec_padz_of_selects {s : State} (h : s.selects .padz = true) :
    exec .padz s = if s.fill.val = 56 then .next (s.goto .padl 0)
      else s.pushOr 0x00#8 .padz (fun t => t) (fun t => t) :=
  perform_selected h

theorem exec_padl_of_selects {s : State} {k : Fin 8} (h : s.selects (.padl k) = true) :
    exec (.padl k) s = s.pushOr (BitVec.ofNat 8 (s.bitlen.toNat / 2 ^ (56 - 8 * k.val))) .latch (fun t => t)
      (fun t => { t with idx := ⟨k.val + 1, by omega⟩ }) := by
  rw [← lengthByte_eq_ofNat_div]
  exact perform_selected h

/-- Settles O20: the mark byte leaves the block open or completes it. -/
theorem padmRule : Obligations.PadmRule := by
  intro s hp hk
  have hsel := (selects_padm s).2 ⟨hp, hk⟩
  rw [exec_padm_of_selects hsel]
  exact ⟨decodeSeq_of_selects hsel, fun hf => pushOr_open hf, fun hf => pushOr_last hf⟩

/-- Settles O21: at FILL = 56 nothing is pushed; at any other FILL the zero byte leaves the block open or completes
it. -/
theorem padzRule : Obligations.PadzRule := by
  intro s hp hk
  have hsel := (selects_padz s).2 ⟨hp, hk⟩
  rw [exec_padz_of_selects hsel]
  refine ⟨decodeSeq_of_selects hsel, fun h56 => if_pos h56, fun hne hf => ?_, fun hf => ?_⟩
  · rw [if_neg hne, pushOr_open hf]
  · rw [if_neg (by omega), pushOr_last hf]

/-- Settles O22: the byte of the length leaves the block open or completes it. -/
theorem padlRule : Obligations.PadlRule := by
  intro s k hp hk
  have hsel := (selects_padl s k).2 ⟨hp, hk⟩
  rw [exec_padl_of_selects hsel]
  exact ⟨decodeSeq_of_selects hsel, fun hf => pushOr_open hf, fun hf => pushOr_last hf⟩

/-- Settles O13: each of the four pushes, and at FILL = 64 a push has no room. -/
theorem pushOnFullBufferStops : Obligations.PushOnFullBufferStops := by
  intro s hf
  refine ⟨fun hp hk => ?_, fun hp hk => ?_, fun k hp hk => ?_, fun d hp hk hroom => ?_⟩
  · rw [exec_padm_of_selects ((selects_padm s).2 ⟨hp, hk⟩), pushOr_full hf]
  · rw [exec_padz_of_selects ((selects_padz s).2 ⟨hp, hk⟩), if_neg (by omega), pushOr_full hf]
  · rw [exec_padl_of_selects ((selects_padl s k).2 ⟨hp, hk⟩), pushOr_full hf]
  · rw [exec_wrb_of_absorb d hp hk, State.takeByte, if_neg hroom]
    exact pushOr_full (s := s.countByte) hf

/-! ## The properties of the padding (R91) -/

theorem getElem?_be64bytes (v : BitVec 64) (k : Fin 8) : (be64bytes v)[k.val]? = some (lengthByte v k) := by
  simp [be64bytes]

/-- The first `k` bytes of a 64-bit value, read big-endian, are its top `8 * k` bits. -/
theorem foldl_take_be64bytes (v : BitVec 64) (k : Nat) (hk : k ≤ 8) :
    ((be64bytes v).take k).foldl (fun n b => n * 256 + b.toNat) 0 = v.toNat / 2 ^ (64 - 8 * k) := by
  induction k with
  | zero =>
    rw [Nat.mul_zero, Nat.sub_zero, Nat.div_eq_of_lt v.isLt]
    rfl
  | succ k ih =>
    have hlast : (be64bytes v)[k]? = some (lengthByte v ⟨k, hk⟩) := getElem?_be64bytes v ⟨k, hk⟩
    have hpow : 2 ^ (64 - 8 * k) = 2 ^ (64 - 8 * (k + 1)) * 256 := by
      rw [show 64 - 8 * k = 64 - 8 * (k + 1) + 8 by omega, Nat.pow_add]
    have hexp : 56 - 8 * k = 64 - 8 * (k + 1) := by omega
    rw [List.take_add_one, hlast, Option.toList_some, List.foldl_append, ih (by omega), lengthByte_eq_ofNat_div,
      hpow, ← Nat.div_div_eq_div_mul, hexp]
    exact Nat.div_add_mod' _ 256

/-- R12: the eight bytes of a 64-bit value, read big-endian, are the value. -/
theorem foldl_be64bytes (v : BitVec 64) : (be64bytes v).foldl (fun n b => n * 256 + b.toNat) 0 = v.toNat := by
  simpa [List.take_of_length_le (length_be64bytes v).le] using foldl_take_be64bytes v 8 le_rfl

end Sys2Proof.Machine

namespace Sys2Proof.Machine.Reference

theorem zeroCount_lt (len : Nat) : zeroCount len < 64 := Nat.mod_lt _ (by decide)

/-- R90: the padding ends the message at the first multiple of 64 that leaves room for the mark and the length. -/
theorem add_zeroCount_eq (len : Nat) : len + 9 + zeroCount len = 64 * ((len + 8) / 64 + 1) := by
  unfold zeroCount
  omega

theorem pad_eq_marked_append (m : List Byte) :
    pad m = marked m (zeroCount m.length) ++ be64bytes (BitVec.ofNat 64 (8 * m.length)) := by
  simp [pad, marked]

theorem pad_eq_append (m : List Byte) :
    pad m = m ++ 0x80#8 :: (List.replicate (zeroCount m.length) 0x00#8 ++
      be64bytes (BitVec.ofNat 64 (8 * m.length))) := by
  simp [pad]

theorem length_pad (m : List Byte) : (pad m).length = m.length + 9 + zeroCount m.length := by
  rw [pad_eq_marked_append, List.length_append, length_marked, length_be64bytes]
  omega

/-- R91 (d), as a product. -/
theorem length_pad_eq_mul (m : List Byte) : (pad m).length = 64 * ((m.length + 8) / 64 + 1) :=
  (length_pad m).trans (add_zeroCount_eq m.length)

/-- R91 (c): the last eight bytes are the length field. -/
theorem drop_pad (m : List Byte) :
    (pad m).drop ((pad m).length - 8) = be64bytes (BitVec.ofNat 64 (8 * m.length)) := by
  rw [pad_eq_marked_append]
  simp

/-- R91 (c): the length field holds the length in bits, which R101's bound keeps from wrapping. -/
theorem foldl_drop_pad {m : List Byte} (hm : m.length < 2 ^ 61) :
    ((pad m).drop ((pad m).length - 8)).foldl (fun n b => n * 256 + b.toNat) 0 = m.length * 8 := by
  rw [drop_pad, foldl_be64bytes, BitVec.toNat_ofNat, Nat.mod_eq_of_lt (by omega), Nat.mul_comm]

/-- R91 (e): the padding begins with the message. -/
theorem take_pad (m : List Byte) : (pad m).take m.length = m := by
  rw [pad_eq_append, List.take_left]

/-- R91 (e): the mark byte follows the message. -/
theorem getD_pad_mark (m : List Byte) : (pad m).getD m.length 0#8 = 0x80#8 := by
  simp [pad_eq_append]

/-- R91 (e): zero bytes follow the mark. -/
theorem getD_pad_zero (m : List Byte) {k : Nat} (hk : m.length < k) (hz : k ≤ m.length + zeroCount m.length) :
    (pad m).getD k 1#8 = 0x00#8 := by
  obtain ⟨j, rfl⟩ := Nat.exists_eq_add_of_lt hk
  have hj : j < zeroCount m.length := by omega
  have hpos : m.length + j + 1 - m.length = j + 1 := by omega
  rw [pad_eq_append, List.getD_append_right _ _ _ _ hk.le, hpos, List.getD_cons_succ,
    List.getD_append _ _ _ _ (by simpa using hj)]
  simp [hj]

/-- R91 (f): the length field gives the length back, and with it the message. -/
theorem pad_injective {m m' : List Byte} (hm : m.length < 2 ^ 61) (hm' : m'.length < 2 ^ 61) (h : pad m = pad m') :
    m = m' := by
  have hbits : m.length * 8 = m'.length * 8 := by rw [← foldl_drop_pad hm, h, foldl_drop_pad hm']
  have hlen : m.length = m'.length := by omega
  calc m = (pad m).take m.length := (take_pad m).symm
    _ = (pad m').take m'.length := by rw [h, hlen]
    _ = m' := take_pad m'

/-- Settles O48: the length by `length_pad_eq_mul`, the length field by `foldl_drop_pad`, the message, mark and zeros by
position, and injectivity from the length field and the message in front. -/
theorem paddingProperties : Obligations.PaddingProperties := by
  refine ⟨fun m hm => ?_, fun m m' hm hm' => pad_injective hm hm'⟩
  have hlen := length_pad m
  have hblocks := length_pad_eq_mul m
  exact ⟨⟨by omega, by omega⟩, ⟨by omega, hlen, zeroCount_lt _⟩, foldl_drop_pad hm, by omega,
    take_pad m, getD_pad_mark m, fun _ => getD_pad_zero m⟩

end Sys2Proof.Machine.Reference
end

section
/-! PROOFS. The schedule expander of spec/41_scheduler.md: the micro-operations LDW and EXP (R114, R115), and the eighty
steps that expand the block in BUF (R116). -/

namespace Sys2Proof.Machine

/-! ## LDW and EXP (R114, R115) -/

/-- R114: the word is read from BUF[4i..4i+3], big-endian. -/
theorem toNat_bufWord (s : State) (i : Fin 16) :
    (s.bufWord i).toNat = s.buf[4 * i.val].toNat * 2 ^ 24 + s.buf[4 * i.val + 1].toNat * 2 ^ 16
      + s.buf[4 * i.val + 2].toNat * 2 ^ 8 + s.buf[4 * i.val + 3].toNat :=
  toNat_be32 _ _ _ _

/-- R114: the partial-block assertion. -/
theorem exec_ldw_raises {s : State} {i : Fin 16} (hsel : s.selects (.ldw i) = true)
    (hpart : i.val = 0 ∧ s.fill.val ≠ 64) : exec (.ldw i) s = .next (s.raise .internalInvariant) :=
  (perform_selected hsel).trans (if_pos hpart)

section

variable {s : State} {i : Fin 16} (hsel : s.selects (.ldw i) = true) (hfull : ¬(i.val = 0 ∧ s.fill.val ≠ 64))

include hsel hfull

/-- R114: the last word of the block hands over to EXP. -/
theorem exec_ldw_last (h15 : i.val = 15) :
    exec (.ldw i) s = .next { s with w := s.w.set i.val (s.bufWord i), ph := .exp, idx := 16 } :=
  (perform_selected hsel).trans ((if_neg hfull).trans (congrArg _ (if_pos h15)))

/-- R114: any other word is followed by the next. -/
theorem exec_ldw_next (h15 : i.val ≠ 15) :
    exec (.ldw i) s = .next { s with w := s.w.set i.val (s.bufWord i), idx := ⟨i.val + 1, by omega⟩ } :=
  (perform_selected hsel).trans ((if_neg hfull).trans (congrArg _ (if_neg h15)))

end

section

variable {s : State} (hsel : s.selects (.exp s.idx) = true)

include hsel

/-- R115: the last word of the schedule hands over to LDS. -/
theorem exec_exp_last (h79 : s.idx.val = 79) :
    exec (.exp s.idx) s = .next { s with w := s.w.set s.idx.val s.expandedWord, ph := .lds, idx := 0 } :=
  (perform_selected hsel).trans (congrArg _ (dif_neg (by omega)))

/-- R115: any other word is followed by the next. -/
theorem exec_exp_next (h79 : s.idx.val < 79) :
    exec (.exp s.idx) s = .next { s with
      w := s.w.set s.idx.val s.expandedWord, idx := ⟨s.idx.val + 1, by omega⟩ } :=
  (perform_selected hsel).trans (congrArg _ (dif_pos h79))

end

/-- Settles O23: the assertion fails, or the word is the last of the block, or another follows. -/
theorem ldwRule : Obligations.LdwRule := by
  intro s i hp hk
  have hsel := (selects_ldw s i).2 ⟨hp, hk⟩
  exact ⟨decodeSeq_of_selects hsel, exec_ldw_raises hsel, fun hfull =>
    ⟨s.bufWord i, toNat_bufWord s i, exec_ldw_last hsel hfull, exec_ldw_next hsel hfull⟩⟩

/-- Settles O24: the word is the last of the schedule, or another follows. -/
theorem expRule : Obligations.ExpRule := by
  rintro s _ hi hp rfl
  have hsel := (selects_exp s s.idx).2 ⟨hp, rfl, hi⟩
  exact ⟨decodeSeq_of_selects hsel, exec_exp_last hsel, exec_exp_next hsel⟩

/-! ## The eighty steps (R116) -/

/-- R76: the sequencer selects a step of the expander. -/
def State.Expanding (s : State) : Prop := (s.ph = .ldw ∧ s.idx.val < 16) ∨ (s.ph = .exp ∧ 16 ≤ s.idx.val)

/-- R116: a whole block is processed with the outside quiet: a step of the core takes it further. -/
theorem progress_of_step {s t : State} {i : Instr} (hf : s.fill.val = 64) (hq : s.quietOutside = true)
    (hsel : s.selects i = true) (hprog : s.Progress) (h : step s = .next t) : t.Progress := by
  have hi := isCommand_of_selects hsel
  rw [step_of_quietOutside hq hsel] at h
  obtain ⟨-, hpart, -⟩ | hperf := exec_micro_next hi h
  · exact absurd hf hpart
  · exact hperf.progress hi hprog

section

variable {s : State} (hs : s.Expanding) (hf : s.fill.val = 64) (hq : s.quietOutside = true)

include hs hf hq

/-- R114, R115: the step for an index below 79 stores a word, goes to the next index and changes nothing else. -/
theorem State.Expanding.exists_step (hprog : s.Progress) (hlt : s.idx.val < 79) :
    ∃ t w p, t = { s with w := w, ph := p, idx := ⟨s.idx.val + 1, by omega⟩ } ∧ step s = .next t ∧ t.Expanding ∧
      t.Progress := by
  obtain ⟨hp, hk⟩ | ⟨hp, hk⟩ := hs
  · have hsel := (selects_ldw s ⟨s.idx.val, hk⟩).2 ⟨hp, rfl⟩
    have hfull : ¬(s.idx.val = 0 ∧ s.fill.val ≠ 64) := fun h => h.2 hf
    have hstep := step_of_quietOutside hq hsel
    by_cases h15 : s.idx.val = 15
    · have hexec := hstep.trans (exec_ldw_last hsel hfull h15)
      exact ⟨_, s.w.set s.idx.val (s.bufWord ⟨s.idx.val, hk⟩), .exp, by simp [h15], hexec, .inr ⟨rfl, le_rfl⟩,
        progress_of_step hf hq hsel hprog hexec⟩
    · have hexec := hstep.trans (exec_ldw_next hsel hfull h15)
      exact ⟨_, _, s.ph, rfl, hexec, .inl ⟨hp, by simp; omega⟩, progress_of_step hf hq hsel hprog hexec⟩
  · have hsel := (selects_exp s s.idx).2 ⟨hp, rfl, hk⟩
    have hexec := (step_of_quietOutside hq hsel).trans (exec_exp_next hsel hlt)
    exact ⟨_, _, s.ph, rfl, hexec, .inr ⟨hp, by simp; omega⟩, progress_of_step hf hq hsel hprog hexec⟩

/-- R115: the step for index 79 completes the schedule. -/
theorem State.Expanding.exists_last_step (hprog : s.Progress) (hlast : s.idx.val = 79) :
    ∃ w, w.toList = s.scheduled ∧ step s = .next { s with w := w, ph := .lds, idx := 0 } := by
  obtain ⟨hp, hk⟩ | ⟨hp, hk⟩ := hs
  · omega
  · have hsel := (selects_exp s s.idx).2 ⟨hp, rfl, hk⟩
    have hexec := (step_of_quietOutside hq hsel).trans (exec_exp_last hsel hlast)
    have hload : (s.w.set s.idx.val s.expandedWord).toList.take 80 = s.scheduled.take 80 :=
      progress_of_step hf hq hsel hprog hexec
    rw [List.take_of_length_le (by simp), List.take_of_length_le (length_scheduled s).le] at hload
    exact ⟨_, hload, hexec⟩

end

/-- R116: from any index of the expander the steps that are left complete the schedule and change nothing else. -/
theorem State.Expanding.runFor_eq {s : State} {n : Nat} (hs : s.Expanding) (hf : s.fill.val = 64)
    (hq : s.quietOutside = true) (hprog : s.Progress) (hn : s.idx.val + n = 79) :
    ∃ w, w.toList = s.scheduled ∧ runFor (n + 1) s = .next { s with w := w, ph := .lds, idx := 0 } := by
  induction n generalizing s with
  | zero =>
    obtain ⟨w, hw, hstep⟩ := hs.exists_last_step hf hq hprog hn
    exact ⟨w, hw, by simp [runFor, hstep]⟩
  | succ n ih =>
    obtain ⟨_, w, p, rfl, hstep, hs', hprog'⟩ := hs.exists_step hf hq hprog (by omega)
    obtain ⟨w', hw', hrun⟩ := ih hs' hf hq hprog' (by simp; omega)
    exact ⟨w', hw', by rw [runFor, hstep]; exact hrun⟩

/-- Settles O51: `State.Expanding.runFor_eq` from index 0, where no word need be loaded. -/
theorem eightyStepsExpandTheBlock : Obligations.EightyStepsExpandTheBlock := by
  intro s hp hk hf hq
  have hprog : s.Progress := by simp [State.Progress, State.Loaded, hp, hk]
  exact State.Expanding.runFor_eq (.inl ⟨hp, by simp [hk]⟩) hf hq hprog (by simp [hk])

end Sys2Proof.Machine
end

section
/-! PROOFS. The reference functions of spec/41_scheduler.md: the blocks (R110, R113) and the recurrence of the schedule
(R112). -/

namespace Sys2Proof.Machine.Reference

/-! ## The blocks (R110, R113) -/

theorem length_blocksAux (n : Nat) (p : List Byte) : (blocksAux n p).length = n := by
  induction n generalizing p with
  | zero => rfl
  | succ n ih => simp [blocksAux, ih]

theorem flatten_blocksAux {n : Nat} {p : List Byte} (hp : p.length = 64 * n) : (blocksAux n p).flatten = p := by
  induction n generalizing p with
  | zero => exact (List.length_eq_zero_iff.1 hp).symm
  | succ n ih => simp [blocksAux, ih (p := p.drop 64) (by simp; omega)]

theorem getElem?_blocksAux {n k : Nat} (hk : k < n) (p : List Byte) :
    (blocksAux n p)[k]? = some ((p.drop (64 * k)).take 64) := by
  induction n generalizing k p with
  | zero => omega
  | succ n ih =>
    cases k with
    | zero => rfl
    | succ k => simp [blocksAux, ih (Nat.lt_of_succ_lt_succ hk), Nat.mul_succ, Nat.add_comm]

theorem length_blocks (p : List Byte) : (blocks p).length = p.length / 64 := length_blocksAux _ _

theorem flatten_blocks {p : List Byte} (hp : p.length % 64 = 0) : (blocks p).flatten = p :=
  flatten_blocksAux (by omega)

/-- R110: block `n` is the window of 64 bytes at `64 * n`. -/
theorem getElem?_blocks {p : List Byte} {n : Nat} (hn : n < p.length / 64) :
    (blocks p)[n]? = some ((p.drop (64 * n)).take 64) :=
  getElem?_blocksAux hn p

/-- R113: schedule `n` is that of block `n`. -/
theorem getElem?_schedule {p : List Byte} {n : Nat} (hn : n < p.length / 64) :
    (schedule p)[n]? = some (expand (words ((p.drop (64 * n)).take 64))) := by
  rw [schedule, List.getElem?_map, getElem?_blocks hn]
  rfl

/-- Settles O49: the number of the blocks, their concatenation and their places, and one schedule for each. -/
theorem blocksPartitionThePadding : Obligations.BlocksPartitionThePadding := by
  intro p hp
  have hschedules : (schedule p).length = p.length / 64 := by rw [schedule, List.length_map, length_blocks]
  refine ⟨length_blocks p, flatten_blocks hp, fun n hn => ?_, hschedules, fun n hn => ?_⟩
  · rw [List.getD_eq_getElem?_getD, getElem?_blocks hn]
    exact ⟨rfl, by simp; omega⟩
  · rw [List.getD_eq_getElem?_getD, getElem?_schedule hn]
    exact ⟨rfl, length_expand (length_words _)⟩

/-! ## The recurrence (R112) -/

/-- R112: the words given come first. -/
theorem getD_expand_of_lt {v : List Word} (hv : v.length = 16) {i : Nat} (hi : i < 16) :
    (expand v).getD i 0#32 = v.getD i 0#32 := by
  have h := congrArg (·[i]?) (take_expand hv)
  simp only [List.getElem?_take_of_lt hi] at h
  simp only [List.getD_eq_getElem?_getD, h]

/-- R112: every further word is expanded from those at distance 3, 8, 14 and 16. -/
theorem getD_expand_of_le {v : List Word} (hv : v.length = 16) {i : Nat} (hi : 16 ≤ i) (hlt : i < 80) :
    (expand v).getD i 0#32 =
      expandWord ((expand v).getD (i - 3) 0#32) ((expand v).getD (i - 8) 0#32) ((expand v).getD (i - 14) 0#32)
        ((expand v).getD (i - 16) 0#32) := by
  have hlen : ((expand v).take i).length = i := by simp [length_expand hv, hlt.le]
  have hprev (n : Nat) (hn : 0 < n) : ((expand v).take i).getD (i - n) 0#32 = (expand v).getD (i - n) 0#32 := by
    have hbelow : i - n < i := by omega
    simp only [List.getD_eq_getElem?_getD, List.getElem?_take_of_lt hbelow]
  have hnext : (expand v)[i]? = some (expandNext ((expand v).take i)) := by
    have h := congrArg (·[i]?) (take_succ_expand hv hi hlt)
    simpa [List.getElem?_take_of_lt, List.getElem?_append_right hlen.le, hlen] using h
  rw [List.getD_eq_getElem?_getD, hnext, Option.getD_some, expandNext, hlen, hprev 3, hprev 8, hprev 14,
    hprev 16] <;> decide

/-! ## Linearity (R112) -/

theorem rotl_xor (n : Nat) (x y : Word) : rotl n (x ^^^ y) = rotl n x ^^^ rotl n y := by
  ext j hj
  by_cases hn : j < n
  · simp [rotl, hn]
  · have hout : 32 ≤ 32 - n + j := by omega
    simp [rotl, hn, hout]

theorem expandWord_xor (x3 x8 x14 x16 y3 y8 y14 y16 : Word) :
    expandWord (x3 ^^^ y3) (x8 ^^^ y8) (x14 ^^^ y14) (x16 ^^^ y16) =
      expandWord x3 x8 x14 x16 ^^^ expandWord y3 y8 y14 y16 := by
  simp only [expandWord, ← rotl_xor]
  congr 1
  ac_rfl

/-- The word by word xor of two lists of words. -/
abbrev xorWords (u v : List Word) : List Word := List.zipWith (· ^^^ ·) u v

theorem getD_xorWords {u v : List Word} (h : u.length = v.length) (i : Nat) :
    (xorWords u v).getD i 0#32 = u.getD i 0#32 ^^^ v.getD i 0#32 := by
  by_cases hi : i < u.length
  · simp [hi, h ▸ hi]
  · simp [h ▸ hi, hi]

theorem expandNext_xorWords {u v : List Word} (h : u.length = v.length) :
    expandNext (xorWords u v) = expandNext u ^^^ expandNext v := by
  have hlen : (xorWords u v).length = v.length := by simp [h]
  simp only [expandNext, hlen, getD_xorWords h, expandWord_xor, h]

theorem expandBy_xorWords {u v : List Word} (n : Nat) (h : u.length = v.length) :
    expandBy n (xorWords u v) = xorWords (expandBy n u) (expandBy n v) := by
  induction n generalizing u v with
  | zero => rfl
  | succ n ih =>
    have happend : xorWords u v ++ [expandNext (xorWords u v)] =
        xorWords (u ++ [expandNext u]) (v ++ [expandNext v]) := by
      rw [expandNext_xorWords h, xorWords, xorWords, List.zipWith_append h]
      rfl
    rw [expandBy, happend, ih (by simp [h])]
    rfl

theorem expandNext_zeros (m : Nat) : expandNext (List.replicate m 0#32) = 0#32 := by
  have hzero (i : Nat) : (List.replicate m 0#32).getD i 0#32 = 0#32 := by simp
  simp only [expandNext, hzero]
  rfl

theorem expandBy_zeros (n m : Nat) : expandBy n (List.replicate m 0#32) = List.replicate (m + n) 0#32 := by
  induction n generalizing m with
  | zero => rfl
  | succ n ih => rw [expandBy, expandNext_zeros, ← List.replicate_succ', ih, Nat.add_right_comm, Nat.add_assoc]

/-- Settles O50: the words by position, linearity and the zeros by induction over the words expanded. -/
theorem scheduleRecurrence : Obligations.ScheduleRecurrence :=
  ⟨fun _ hv => ⟨length_expand hv, fun _ hi => getD_expand_of_lt hv hi,
      fun _ hi hlt => getD_expand_of_le hv hi hlt⟩,
    fun _ _ hu hv => expandBy_xorWords 64 (hu.trans hv.symm), expandBy_zeros 64 16⟩

end Sys2Proof.Machine.Reference
end

section
/-! PROOFS. The compression round engine of spec/42_compressor.md: the micro-operations LDS, RND and CHN (R130 to R132),
and the steps that compress the block (R133). -/

namespace Sys2Proof.Machine

/-! ## LDS, RND and CHN (R130 to R132) -/

/-- R130, R133: the working registers hold the five words `v`. -/
def State.setWorking (s : State) (v : Reference.Five) : State :=
  { s with a := v.a, b := v.b, c := v.c, d := v.d, e := v.e }

/-- R129: the five words after the eighty rounds, with the schedule in W and the state in H. -/
def State.afterRounds (s : State) : Reference.Five := Reference.roundsFrom 0 s.w.toList s.five

/-- R132: the chaining addition, which empties BUF. -/
def State.chain (s : State) : State :=
  { s with h := #v[s.h[0] + s.a, s.h[1] + s.b, s.h[2] + s.c, s.h[3] + s.d, s.h[4] + s.e], fill := 0 }

/-- R128, R131: a round of the core is the round of the reference layer. -/
theorem working_round (s : State) :
    s.round.working = Reference.round s.idx.val s.w[s.idx.val] s.working := rfl

/-- R129, R132: the chaining addition after the eighty rounds completes the compression. -/
theorem chain_setWorking_afterRounds (s : State) :
    (s.setWorking s.afterRounds).chain =
      { s.setWorking s.afterRounds with h := (Reference.compress s.w.toList s.five).words, fill := 0 } := rfl

theorem exec_lds_of_selects {s : State} (hsel : s.selects .lds = true) :
    exec .lds s = .next ((s.setWorking s.five).goto .rnd 0) :=
  perform_selected hsel

theorem exec_chn_of_selects {s : State} (hsel : s.selects .chn = true) :
    exec .chn s = .next (s.chain.goto s.rsm.phase 0) :=
  perform_selected hsel

section

variable {s : State} (hsel : s.selects (.rnd s.idx) = true)

include hsel

/-- R131: the last round hands over to CHN. -/
theorem exec_rnd_last (h79 : s.idx.val = 79) : exec (.rnd s.idx) s = .next (s.round.goto .chn 0) :=
  (perform_selected hsel).trans (congrArg _ (dif_neg (by omega)))

/-- R131: any other round is followed by the next. -/
theorem exec_rnd_next (h79 : s.idx.val < 79) :
    exec (.rnd s.idx) s = .next (s.round.setIdx ⟨s.idx.val + 1, by omega⟩) :=
  (perform_selected hsel).trans (congrArg _ (dif_pos h79))

end

/-- Settles O25: LDS is selected and loads the working registers. -/
theorem ldsRule : Obligations.LdsRule := by
  intro s hp hk
  have hsel := (selects_lds s).2 ⟨hp, hk⟩
  exact ⟨decodeSeq_of_selects hsel, exec_lds_of_selects hsel⟩

/-- Settles O26: the function and the constant given are those of the round, which is the last or is followed by
another. -/
theorem rndRule : Obligations.RndRule := by
  rintro s _ f k hp rfl
  have hsel := (selects_rnd s s.idx).2 ⟨hp, rfl⟩
  refine ⟨decodeSeq_of_selects hsel, fun hrange => ?_⟩
  obtain ⟨rfl, rfl⟩ : f = roundF s.idx.val s.b s.c s.d ∧ k = roundK s.idx.val := by
    rcases hrange with ⟨hi, rfl, rfl⟩ | ⟨hi, hi', rfl, rfl⟩ | ⟨hi, hi', rfl, rfl⟩ | ⟨hi, rfl, rfl⟩ <;>
      simp (disch := omega) only [roundF, roundK, if_pos, if_neg, and_self]
  exact ⟨exec_rnd_last hsel, exec_rnd_next hsel⟩

/-- Settles O27: the phase is the one RSM stands for. -/
theorem chnRule : Obligations.ChnRule := by
  intro s hp hk
  have hsel := (selects_chn s).2 ⟨hp, hk⟩
  exact ⟨decodeSeq_of_selects hsel, s.rsm.phase, exec_chn_of_selects hsel, congrArg Resume.phase,
    congrArg Resume.phase, congrArg Resume.phase⟩

/-! ## The steps that compress the block (R133) -/

theorem runFor_succ_of_step {s t : State} (h : step s = .next t) (n : Nat) : runFor (n + 1) s = runFor n t := by
  rw [runFor, h]

/-- A run goes on where another ended. -/
theorem runFor_add {m : Nat} {s t : State} (h : runFor m s = .next t) (n : Nat) :
    runFor (m + n) s = runFor n t := by
  induction m generalizing s with
  | zero =>
    cases h
    rw [Nat.zero_add]
  | succ m ih =>
    rw [runFor] at h
    cases hstep : step s with
    | next u => rw [Nat.add_right_comm, runFor_succ_of_step hstep, ih (by simpa [hstep] using h)]
    | fault r => simp [hstep] at h
    | refused r => simp [hstep] at h

/-- R129: the rounds from IDX on begin with that of IDX. -/
theorem roundsFrom_drop_idx (s : State) :
    Reference.roundsFrom s.idx.val (s.w.toList.drop s.idx.val) s.working =
      Reference.roundsFrom (s.idx.val + 1) (s.w.toList.drop (s.idx.val + 1)) s.round.working := by
  rw [List.drop_eq_getElem_cons (by simp), Reference.roundsFrom, Vector.getElem_toList, working_round]

/-- R131: from any index the rounds that are left are performed, and nothing else changes. -/
theorem runFor_rounds {s : State} {n : Nat} (hp : s.ph = .rnd) (hq : s.quietOutside = true)
    (hn : s.idx.val + n = 79) :
    runFor (n + 1) s = .next ((s.setWorking
      (Reference.roundsFrom s.idx.val (s.w.toList.drop s.idx.val) s.working)).goto .chn 0) := by
  induction n generalizing s with
  | zero =>
    have hsel := (selects_rnd s s.idx).2 ⟨hp, rfl⟩
    have hend : s.w.toList.drop (s.idx.val + 1) = [] := List.drop_eq_nil_of_le (by simp; omega)
    rw [runFor_succ_of_step ((step_of_quietOutside hq hsel).trans (exec_rnd_last hsel hn)), roundsFrom_drop_idx, hend]
    rfl
  | succ n ih =>
    have hsel := (selects_rnd s s.idx).2 ⟨hp, rfl⟩
    rw [runFor_succ_of_step ((step_of_quietOutside hq hsel).trans (exec_rnd_next hsel (by omega))),
      roundsFrom_drop_idx]
    exact ih hp hq (by simp; omega)

/-- R133: LDS, the eighty rounds and CHN compress the block whose schedule is in W. -/
theorem runFor_compress {s : State} (hp : s.ph = .lds) (hk : s.idx = 0) (hq : s.quietOutside = true) :
    runFor 82 s = .next ({ s.setWorking s.afterRounds with
      h := (Reference.compress s.w.toList s.five).words, fill := 0 }.goto s.rsm.phase 0) := by
  have hlds := (selects_lds s).2 ⟨hp, hk⟩
  have hload := (step_of_quietOutside hq hlds).trans (exec_lds_of_selects hlds)
  have hrounds : runFor 80 ((s.setWorking s.five).goto .rnd 0) = .next ((s.setWorking s.afterRounds).goto .chn 0) :=
    runFor_rounds (s := (s.setWorking s.five).goto .rnd 0) rfl hq rfl
  have hchn := (selects_chn ((s.setWorking s.afterRounds).goto .chn 0)).2 ⟨rfl, rfl⟩
  have hchain := (step_of_quietOutside (s := (s.setWorking s.afterRounds).goto .chn 0) hq hchn).trans
    (exec_chn_of_selects hchn)
  calc runFor 82 s
    _ = runFor 81 ((s.setWorking s.five).goto .rnd 0) := runFor_succ_of_step hload 81
    _ = runFor 1 ((s.setWorking s.afterRounds).goto .chn 0) := runFor_add hrounds 1
    _ = .next ((s.setWorking s.afterRounds).chain.goto s.rsm.phase 0) := runFor_succ_of_step hchain 0
    _ = _ := by rw [chain_setWorking_afterRounds]

/-- Settles O52: `runFor_compress`, also from where the eighty steps of the expander lead. -/
theorem blockIsCompressed : Obligations.BlockIsCompressed := by
  refine ⟨fun s hp hk hq => ⟨_, rfl, runFor_compress hp hk hq⟩, fun s hp hk hf hq => ?_⟩
  obtain ⟨w, hw, hexpand⟩ := eightyStepsExpandTheBlock s hp hk hf hq
  have hcompress := runFor_compress (s := { s with w := w, ph := .lds, idx := 0 }) rfl rfl hq
  rw [hw] at hcompress
  exact ⟨_, (runFor_add hexpand 82).trans hcompress, rfl, rfl, rfl, rfl, rfl⟩

end Sys2Proof.Machine
end

section
/-! PROOFS. The digest output register of spec/43_digest.md: the renderings of a digest (R147), LATCH (R148) and the
read commands RDW, RDB and RDS (R149 to R151). -/

namespace Sys2Proof.Machine

/-! ## The fields of DIGEST (R147, R149, R150) -/

theorem digestWord_eq_ofNat_div (g : BitVec 160) (i : Fin 5) :
    digestWord g i = BitVec.ofNat 32 (g.toNat / 2 ^ (128 - 32 * i.val)) := by
  rw [digestWord, BitVec.extractLsb', Nat.shiftRight_eq_div_pow]

theorem digestByte_eq_ofNat_div (g : BitVec 160) (j : Fin 20) :
    digestByte g j = BitVec.ofNat 8 (g.toNat / 2 ^ (152 - 8 * j.val)) := by
  rw [digestByte, BitVec.extractLsb', Nat.shiftRight_eq_div_pow]

/-- R150: a byte of DIGEST, zero-extended. -/
theorem setWidth_digestByte (g : BitVec 160) (j : Fin 20) :
    (digestByte g j).setWidth 32 = BitVec.ofNat 32 (g.toNat / 2 ^ (152 - 8 * j.val) % 256) := by
  rw [digestByte_eq_ofNat_div, ← BitVec.toNat_inj]
  simp

/-- R150: byte `j` of DIGEST is byte `j % 4`, most significant first, of its word `j / 4`. -/
theorem digestByte_eq_wordByte (g : BitVec 160) (j : Fin 20) :
    digestByte g j = wordByte (digestWord g ⟨j.val / 4, by omega⟩) ⟨j.val % 4, by omega⟩ := by
  ext k hk
  simp only [digestByte, wordByte, digestWord, BitVec.getElem_extractLsb', BitVec.getLsbD_extractLsb']
  have hin : 24 - 8 * (j.val % 4) + k < 32 := by omega
  have hpos : 152 - 8 * j.val + k = 128 - 32 * (j.val / 4) + (24 - 8 * (j.val % 4) + k) := by omega
  simp [hin, hpos]

/-! ## The renderings (R147) -/

/-- R147 (c): byte `j` of the list is byte `j % 4` of word `j / 4`. -/
theorem bytes_eq_map (g : Reference.Five) :
    g.bytes = (List.finRange 20).map fun j => wordByte g.words[j.val / 4] ⟨j.val % 4, by omega⟩ := rfl

theorem digestByte_bits (g : Reference.Five) (j : Fin 20) :
    digestByte g.bits j = wordByte g.words[j.val / 4] ⟨j.val % 4, by omega⟩ := by
  rw [digestByte_eq_wordByte, Reference.digestWord_bits]

theorem getD_bytes (g : Reference.Five) (j : Fin 20) : g.bytes.getD j.val 0#8 = digestByte g.bits j := by
  rw [digestByte_bits, bytes_eq_map]
  simp

/-- Settles O47: the words by `digestWord_bits`, and the bytes as the bytes of the words. -/
theorem renderingsAgree : Obligations.RenderingsAgree :=
  fun g => ⟨Reference.digestWord_bits g, rfl, getD_bytes g, digestByte_bits g⟩

/-! ## LATCH (R148) -/

theorem toNat_digestBits (h : Vector Word 5) :
    (digestBits h).toNat = h[0].toNat * 2 ^ 128 + h[1].toNat * 2 ^ 96 + h[2].toNat * 2 ^ 64 + h[3].toNat * 2 ^ 32
      + h[4].toNat :=
  Reference.toNat_bits ⟨h[0], h[1], h[2], h[3], h[4]⟩

/-- Settles O28: LATCH is selected, and DIGEST becomes the number of the five words side by side. -/
theorem latchRule : Obligations.LatchRule := by
  intro s hp hk
  have hsel := (selects_latch s).2 ⟨hp, hk⟩
  exact ⟨decodeSeq_of_selects hsel, digestBits s.h, toNat_digestBits s.h, perform_selected hsel⟩

/-! ## RDW and RDB (R149, R150) -/

theorem done_only_of_busy (p : Phase) (hb : p.busy = true) : decide (p = .done) = false :=
  decide_eq_false fun hp => by simp [hp, Phase.busy] at hb

theorem exec_rdw_eq_accept (i : Fin 5) (s : State) :
    exec (.rdw i) s = s.accept (fun p => decide (p = .done)) .protocol
      (.next (s.respond true (digestWord s.digest i))) :=
  rfl

theorem exec_rdb_eq_accept (j : Fin 20) (s : State) :
    exec (.rdb j) s = s.accept (fun p => decide (p = .done)) .protocol
      (.next (s.respond true ((digestByte s.digest j).setWidth 32))) :=
  rfl

/-- R80, R149, R150: a read is performed in DONE only, where it changes no register. -/
theorem read_of_accept {i : Instr} {data : State → Word} (hexec : ∀ s, exec i s =
    s.accept (fun p => decide (p = .done)) .protocol (.next (s.respond true (data s)))) :
    Claims.HeldWhileBusy i ∧ Claims.RefusedInFault i ∧ Claims.ProtocolIn i .idle ∧ Claims.ProtocolIn i .absorb ∧
      ∀ s : State, s.ph = .done → s.idx = 0 → exec i s = .next (Claims.answered s true (data s)) :=
  ⟨heldWhileBusy_of_accept hexec done_only_of_busy, refusedInFault_of_accept hexec rfl,
    protocolIn_of_accept hexec rfl rfl nofun, protocolIn_of_accept hexec rfl rfl nofun,
    fun _ hp hk => exec_legal_of_accept hexec (decide_eq_true hp) (hp ▸ rfl) hk⟩

/-- Settles O17: the words above 0x3004 by R75's list; RDW is legal in DONE only, and there answers a field of
DIGEST. -/
theorem rdwRule : Obligations.RdwRule := by
  refine ⟨fun a ha => (illegalWordsAreThese _).2 ?_, fun i => ?_⟩
  · simp only [Claims.IllegalWord, BitVec.toNat_add, BitVec.toNat_ofNat]
    omega
  · have hword : 0x3000#16 + BitVec.ofNat 16 i.val = 0x0600#13 ++ BitVec.ofNat 3 i.val := by
      revert i
      decide
    simp only [← digestWord_eq_ofNat_div]
    exact ⟨hword ▸ decodeOfEncode (.rdw i) rfl, read_of_accept (exec_rdw_eq_accept i)⟩

/-- Settles O18: the words above 0x4013 by R75's list; RDB is legal in DONE only, and there answers a field of DIGEST,
zero-extended. -/
theorem rdbRule : Obligations.RdbRule := by
  refine ⟨fun a ha => (illegalWordsAreThese _).2 ?_, fun j => ?_⟩
  · simp only [Claims.IllegalWord, BitVec.toNat_add, BitVec.toNat_ofNat]
    omega
  · have hword : 0x4000#16 + BitVec.ofNat 16 j.val = 0x0200#11 ++ BitVec.ofNat 5 j.val := by
      revert j
      decide
    simp only [← setWidth_digestByte]
    exact ⟨hword ▸ decodeOfEncode (.rdb j) rfl, read_of_accept (exec_rdb_eq_accept j)⟩

/-! ## RDS (R151) -/

/-- R151: STATUS as a number: ERR above the four flags. -/
theorem toNat_status (s : State) : s.status.toNat = Claims.codeOf s.err * 16 + (decide (s.ph = .absorb)).toNat * 8
    + (decide (s.err ≠ .none)).toNat * 4 + s.dvalid.toNat * 2 + s.ph.busy.toNat := by
  have hcode : s.err.code.toNat = Claims.codeOf s.err := by
    cases s.err <;> rfl
  simp only [State.status, toNat_append_eq_mul_add, BitVec.toNat_ofBool, BitVec.toNat_ofNat, hcode]
  omega

/-- R151: ERR and the flags of STATUS, by position, with nothing above ERR. -/
theorem status_fields (s : State) :
    s.status.toNat / 2 % 2 = s.dvalid.toNat ∧ s.status.toNat / 4 % 2 = (decide (s.err ≠ .none)).toNat ∧
      s.status.toNat / 8 % 2 = (decide (s.ph = .absorb)).toNat ∧ s.status.toNat / 16 = Claims.codeOf s.err := by
  have hbusy := Bool.toNat_le s.ph.busy
  have hvalid := Bool.toNat_le s.dvalid
  have hfault := Bool.toNat_le (decide (s.err ≠ .none))
  have hopen := Bool.toNat_le (decide (s.ph = .absorb))
  rw [toNat_status]
  omega

theorem codeOf_lt (x : ErrCode) : Claims.codeOf x < 16 := by
  cases x <;> decide

/-- A bit of a word, as a number. -/
theorem getLsbD_of_toNat_div {v : Word} {i : Nat} {b : Bool} (h : v.toNat / 2 ^ i % 2 = b.toNat) : v.getLsbD i = b := by
  rw [BitVec.getLsbD, Nat.testBit_eq_decide_div_mod_eq, h]
  cases b <;> rfl

theorem busy_iff_mem (p : Phase) :
    p.busy = true ↔ p ∈ [Phase.padm, .padz, .padl, .ldw, .exp, .lds, .rnd, .chn, .latch] := by
  cases p <;> decide

/-- R40 (h), (i), R151: under the invariant DVALID and FAULT are what the phase says. -/
theorem State.Inv.toNat_status_eq {s : State} (hs : s.Inv) :
    s.status.toNat = Claims.codeOf s.err * 16 + (decide (s.ph = .absorb)).toNat * 8
      + (decide (s.ph = .fault)).toNat * 4 + (decide (s.ph = .done)).toNat * 2 + s.ph.busy.toNat := by
  have hv : s.dvalid = decide (s.ph = .done) := Bool.eq_iff_iff.2 (by simpa using hs.valid)
  rw [toNat_status, hv]
  simp only [hs.cause]

/-- R151: outside FAULT the phase alone gives STATUS. -/
theorem State.Inv.status_of_phase {s : State} (hs : s.Inv) {p : Phase} {v : Word} (hp : s.ph = p) (hf : p ≠ .fault)
    (hv : (decide (p = .absorb)).toNat * 8 + (decide (p = .done)).toNat * 2 + p.busy.toNat = v.toNat) :
    s.status = v := by
  subst hp
  have herr := hs.err_of_ne_fault hf
  apply BitVec.eq_of_toNat_eq
  simp [hs.toNat_status_eq, herr, Claims.codeOf, hf, hv]

theorem State.Inv.status_of_fault {s : State} (hs : s.Inv) (hp : s.ph = .fault) :
    s.status ∈ [0x14#32, 0x24#32, 0x34#32, 0x44#32] := by
  have herr := hs.cause.2 hp
  have hnat := hs.toNat_status_eq
  simp only [hp] at hnat
  cases he : s.err <;> simp_all [← BitVec.toNat_inj, Claims.codeOf, Phase.busy]

/-- Settles O19: RDS is legal in every phase; the flags and ERR by position; and the values under the invariant. -/
theorem rdsRule : Obligations.RdsRule := by
  refine ⟨rfl, fun s hs => ⟨s.status, exec_rds_eq hs, ?_⟩⟩
  obtain ⟨hvalid, hfault, hopen, herr⟩ := status_fields s
  have hcode := codeOf_lt s.err
  refine ⟨?_, ?_, ?_, ?_, ?_, ?_, ?_⟩
  · rw [getLsbD_status_zero, busy_iff_mem]
  · rw [getLsbD_of_toNat_div (i := 1) hvalid]
  · rw [getLsbD_of_toNat_div (i := 2) hfault, decide_eq_true_iff]
  · rw [getLsbD_of_toNat_div (i := 3) hopen, decide_eq_true_iff]
  · omega
  · omega
  · exact fun hinv => ⟨fun hp => hinv.status_of_phase hp nofun rfl, fun hp => hinv.status_of_phase hp nofun rfl,
      hinv.status_of_busy, fun hp => hinv.status_of_phase hp nofun rfl, hinv.status_of_fault⟩

end Sys2Proof.Machine
end

section
/-! PROOFS. The digest of every message (spec 43_digest.md R160, R161, 70_reset_and_hazards.md R200): a host that opens,
feeds and closes a message, with RDS and turns left to the core anywhere between, and the account of what each step does
for it. -/

namespace Sys2Proof.Machine

open Claims

/-! ## What is due -/

/-- R80: the word at the port, if there is one, and then the turns to come. -/
def State.due (s : State) : List Turn := s.port.toList.map .command ++ s.turns

theorem due_of_free {s : State} (hport : s.port = none) : s.due = s.turns := by
  simp [State.due, hport]

/-- R80: the word delivered is the first that is due, and it is still due where it is treated. -/
theorem due_of_delivers {s u : State} {w : CmdWord} (h : Delivers s w u) :
    u.due = s.due ∧ u.due = .command w :: u.turns := by
  obtain ⟨hport, -, rfl⟩ | ⟨hport, r, ht, rfl⟩ := h
  · exact ⟨rfl, by simp [State.due, hport]⟩
  · exact ⟨by simp [State.due, hport, ht], rfl⟩

theorem CoreStep.busy {s t : State} (h : CoreStep s t) : s.ph.busy = true := by
  obtain ⟨i, hsel, -⟩ := h
  exact busy_of_selects hsel

/-- The core's own step leaves what is due as it is. -/
theorem CoreStep.due_eq {s t : State} (h : CoreStep s t) : t.due = s.due := by
  obtain ⟨hturns, -, hport, -⟩ := h.silent
  rw [State.due, hturns, hport, State.due]

/-- R194: a step may find the state with a turn taken; no word due is lost by that, and no grant is gained. -/
structure TurnTaken (s u : State) : Prop where
  core : SameCore s u
  words : presented u.due = presented s.due
  message : u.due.filter ofMessage = s.due.filter ofMessage
  grants : u.due.count .core ≤ s.due.count .core

theorem TurnTaken.refl (s : State) : TurnTaken s s := ⟨.refl s, rfl, rfl, le_rfl⟩

theorem TurnTaken.of_delivers {s u : State} {w : CmdWord} (h : Delivers s w u) : TurnTaken s u := by
  obtain ⟨hdue, -⟩ := due_of_delivers h
  exact ⟨sameCore_of_delivers h, by rw [hdue], by rw [hdue], by rw [hdue]⟩

/-- R194: a turn left to the core is one grant less. -/
theorem count_due_of_core_turn {s : State} {r : List Turn} (ht : s.turns = .core :: r) :
    (State.due { s with turns := r }).count .core + 1 = s.due.count .core := by
  simp [State.due, ht, List.count_append]
  omega

theorem TurnTaken.of_core_turn {s : State} {r : List Turn} (ht : s.turns = .core :: r) :
    TurnTaken s { s with turns := r } := by
  have hcount := count_due_of_core_turn ht
  refine ⟨⟨s.port, r, rfl⟩, ?_, ?_, by omega⟩
  · cases hport : s.port <;> simp [State.due, ht, hport, presented]
  · simp [State.due, ht, ofMessage]

/-- R178: a core that is not busy does nothing in the turn left to it. -/
theorem step_quiet_of_core_turn {s : State} {r : List Turn} (ht : s.turns = .core :: r) (hb : s.ph.busy = false)
    (hk : s.idx = 0) : step s = .next { s with turns := r } := by
  have hquiet := coreMove_quiet (s := { s with turns := r }) hb hk
  simp [step, State.nextMove, ht, hquiet]

/-- Where no reset is due, nothing is, or the core is given its turn, or a word is delivered. -/
theorem due_cases {s : State} (hreset : .reset ∉ s.due) :
    s.due = [] ∨ (∃ r, s.turns = .core :: r) ∨ ∃ w u, Delivers s w u := by
  cases ht : s.turns with
  | nil =>
    cases hport : s.port with
    | none => exact .inl (by simp [State.due, ht, hport])
    | some w => exact .inr (.inr ⟨w, s, .inl ⟨hport, .inl ht, rfl⟩⟩)
  | cons turn r =>
    cases turn with
    | reset => exact absurd (by simp [State.due, ht]) hreset
    | core => exact .inr (.inl ⟨r, rfl⟩)
    | command v =>
      cases hport : s.port with
      | none => exact .inr (.inr ⟨v, _, .inr ⟨hport, r, ht, rfl⟩⟩)
      | some w => exact .inr (.inr ⟨w, s, .inl ⟨hport, .inr ⟨v, r, ht⟩, rfl⟩⟩)

/-! ## The account of a run -/

/-- R74, R160: the answer to a word, with data 0 where the word is not RDS. -/
def Answers (w : CmdWord) (r : Response) : Prop := r.ok = true ∧ (w ≠ 0x5000#16 → r.data = 0#32)

/-- R200, R201: what a step does for the host, and how many micro-operations it is. -/
inductive Accounts (s t : State) : Nat → Prop
  | micro (hw : presented t.due = presented s.due) (hc : t.due.count .core ≤ s.due.count .core)
      (hr : t.responses = s.responses) : Accounts s t 1
  | idle (hw : presented t.due = presented s.due) (hc : t.due.count .core + 1 = s.due.count .core)
      (hr : t.responses = s.responses) : Accounts s t 0
  | answer {w : CmdWord} {r : Response} (hw : presented s.due = w :: presented t.due)
      (hc : t.due.count .core = s.due.count .core) (hr : t.responses = s.responses ++ [r]) (ha : Answers w r) :
      Accounts s t 0

/-- R160, R200: a run with `k` micro-operations that answers every word due, in order. -/
def AnswersAll (s t : State) (k : Nat) : Prop :=
  ∃ n rs, runFor n s = .next t ∧ t.responses = s.responses ++ rs ∧ List.Forall₂ Answers (presented s.due) rs ∧
    (presented s.due).length + k ≤ n ∧ n ≤ (presented s.due).length + k + s.due.count .core

theorem AnswersAll.refl {s : State} (h : s.due = []) : AnswersAll s s 0 :=
  ⟨0, [], rfl, by simp, by simp [h, presented], by simp [h, presented], by simp⟩

theorem AnswersAll.head {s t u : State} {j k : Nat} (h : step s = .next t) (hj : Accounts s t j)
    (hk : AnswersAll t u k) : AnswersAll s u (j + k) := by
  obtain ⟨n, rs, hrun, hresp, hall, hlow, hhigh⟩ := hk
  have hsucc := (runFor_succ_of_step h n).trans hrun
  cases hj with
  | micro hw hc hr =>
    rw [hw] at hall hlow hhigh
    exact ⟨n + 1, rs, hsucc, by rw [hresp, hr], hall, by omega, by omega⟩
  | idle hw hc hr =>
    rw [hw] at hall hlow hhigh
    exact ⟨n + 1, rs, hsucc, by rw [hresp, hr], hall, by omega, by omega⟩
  | @answer w r hw hc hr ha =>
    refine ⟨n + 1, r :: rs, hsucc, by simp [hresp, hr], hw ▸ .cons ha hall, ?_, ?_⟩ <;>
      rw [hw, List.length_cons] <;> omega

/-- R194: what is left of a schedule: the micro-operations, the words to answer, and the turns left to the core. -/
def scheduleLeft (s : State) (k : Nat) : Nat := k + (presented s.due).length + s.due.count .core

theorem Accounts.scheduleLeft_lt {s t : State} {j : Nat} (h : Accounts s t j) (k : Nat) :
    scheduleLeft t k < scheduleLeft s (j + k) := by
  unfold scheduleLeft
  cases h with
  | micro hw hc hr =>
    rw [hw]
    omega
  | idle hw hc hr =>
    rw [hw]
    omega
  | answer hw hc hr ha =>
    rw [hw, List.length_cons]
    omega

/-- The core's own step, after a turn was taken. -/
theorem CoreStep.accounts {s u t : State} (h : CoreStep u t) (hu : TurnTaken s u) : Accounts s t 1 := by
  obtain ⟨-, -, -, hresp⟩ := h.silent
  have hdue := h.due_eq
  obtain ⟨p, r, rfl⟩ := hu.core
  exact .micro (hdue ▸ hu.words) (hdue ▸ hu.grants) hresp

/-- A word delivered and answered. -/
theorem accounts_of_answered {s u t : State} {w : CmdWord} {r : Response} (h : Delivers s w u)
    (hport : t.port = none) (hturns : t.turns = u.turns) (hresp : t.responses = u.responses ++ [r])
    (ha : Answers w r) : Accounts s t 0 := by
  obtain ⟨hdue, hfirst⟩ := due_of_delivers h
  obtain ⟨p, q, rfl⟩ := sameCore_of_delivers h
  have hrest := (due_of_free hport).trans hturns
  refine .answer ?_ ?_ hresp ha
  · rw [← hdue, hfirst, hrest]
    rfl
  · rw [← hdue, hfirst, hrest]
    simp

/-! ## The micro-operations owed (R200) -/

theorem State.Computes.fill_of_absorb {s : State} {m : List Byte} (hs : s.Computes m) (hp : s.ph = .absorb) :
    s.fill.val = m.length % 64 := by
  have hshort := hs.short
  rw [hs.inv.fill_of_absorb hp, hs.count, BitVec.toNat_ofNat]
  omega

/-- R93, R200 (a): the byte that completes a block is followed by its 162 micro-operations. -/
theorem State.Computes.stepsLeft_wrb {s t : State} {m : List Byte} {d : Byte} (hs : s.Computes m)
    (hp : s.ph = .absorb) (h : exec (.wrb d) s = .next t) (hr : t.Receiving) :
    t.stepsLeft = 162 * ((m.length + 1) / 64 - m.length / 64) := by
  have hfill := hs.fill_of_absorb hp
  obtain ⟨-, ⟨-, -, rfl⟩ | ⟨-, -, hf, rfl⟩ | ⟨-, -, hf, rfl⟩ | ⟨hl, -⟩⟩ := execWrb_next h
  · simp [State.Receiving, Phase.inBlock] at hr
  · have hblock : (m.length + 1) / 64 = m.length / 64 := by omega
    simp [State.stepsLeft, hp, hblock]
  · have hblock : (m.length + 1) / 64 = m.length / 64 + 1 := by omega
    simp [State.stepsLeft, Resume.stepsLeft, hblock]
  · simp [hp] at hl

/-- R94, R200 (b). -/
theorem State.Computes.stepsLeft_fin {s t : State} {m : List Byte} (hs : s.Computes m) (hp : s.ph = .absorb)
    (h : exec .fin s = .next t) : t.stepsLeft = Reference.stepsAfterFin m.length := by
  have hfill := hs.fill_of_absorb hp
  obtain ⟨-, ⟨-, rfl⟩ | ⟨hl, -⟩⟩ := execFin_next h
  · simp only [State.stepsLeft, State.respond_ph, State.respond_fill, hfill, Reference.stepsAfterFin,
      Reference.zeroCount]
    split_ifs <;> omega
  · simp [hp] at hl

theorem stepsLeft_init {s t : State} (hb : s.ph.busy = false) (h : exec .init s = .next t) : t.stepsLeft = 0 := by
  obtain ⟨-, ⟨hb', -⟩ | ⟨-, rfl⟩⟩ := execInit_next h
  · simp [hb] at hb'
  · rfl

/-! ## The stages of a message -/

/-- R191: the turns that feed the bytes `l` and close the message. -/
def closingTurns (l : List Byte) : List Turn := (l.map fun d => .command (0x10#8 ++ d)) ++ [.command 0x2000#16]

theorem messageTurns_eq_cons (m : List Byte) : messageTurns m = .command 0x0000#16 :: closingTurns m := rfl

/-- R160: the core is on its way to the digest of `m`, with `k` micro-operations to perform: the message is still to be
opened, or it is open with the bytes `l` to come, or it is closed. -/
inductive Hashing (m : List Byte) (s : State) (k : Nat) : Prop
  | unopened (hs : s.seqLegal = true) (hb : s.ph.busy = false) (hdue : s.due.filter ofMessage = messageTurns m)
      (hk : k = Reference.stepsInAll m.length)
  | opened {m' l : List Byte} (hs : s.Computes m') (hr : s.Receiving) (hm : m' ++ l = m)
      (hdue : s.due.filter ofMessage = closingTurns l)
      (hk : k = s.stepsLeft + 162 * (m.length / 64 - m'.length / 64) + Reference.stepsAfterFin m.length)
  | closed (hs : s.Computes m) (hr : ¬ s.Receiving) (hdue : s.due.filter ofMessage = []) (hk : k = s.stepsLeft)

/-- A step towards the digest of `m`, which performs some of the `k` micro-operations owed. -/
def Advances (m : List Byte) (s : State) (k : Nat) : Prop :=
  ∃ t j k', k = j + k' ∧ step s = .next t ∧ Accounts s t j ∧ Hashing m t k'

theorem Advances.of_no_micro {m : List Byte} {s t : State} {k : Nat} (h : step s = .next t) (ha : Accounts s t 0)
    (ht : Hashing m t k) : Advances m s k :=
  ⟨t, 0, k, (Nat.zero_add k).symm, h, ha, ht⟩

/-- R160: the computation has ended and nothing is due. -/
structure Hashed (m : List Byte) (t : State) : Prop where
  computes : t.Computes m
  ph : t.ph = .done
  due : t.due = []

section
variable {m : List Byte} {t : State} (h : Hashed m t)
include h

theorem Hashed.not_busy : t.ph.busy = false := by
  rw [h.ph]
  rfl

theorem Hashed.not_receiving : ¬ t.Receiving := by
  simp [State.Receiving, Phase.inBlock, h.ph]

theorem Hashed.digest_eq : t.digest = (Reference.digest m).bits :=
  h.computes.digest_eq h.not_busy h.not_receiving

end

section
variable {m : List Byte} {s : State} {k : Nat} (h : Hashing m s k)
include h

theorem Hashing.reset_not_due : .reset ∉ s.due := by
  intro hmem
  have hturn : Turn.reset ∈ s.due.filter ofMessage := List.mem_filter.2 ⟨hmem, rfl⟩
  cases h with
  | unopened _ _ hdue | opened _ _ _ hdue | closed _ _ hdue =>
    simp [hdue, messageTurns_eq_cons, closingTurns] at hturn

theorem Hashing.seqLegal : s.seqLegal = true := by
  cases h with
  | unopened hs => exact hs
  | opened hs | closed hs => exact hs.inv.seq

theorem Hashing.inv_of_busy (hb : s.ph.busy = true) : s.Inv := by
  cases h with
  | unopened _ hb' =>
    rw [hb] at hb'
    cases hb'
  | opened hs | closed hs => exact hs.inv

theorem Hashing.of_turnTaken {u : State} (hu : TurnTaken s u) : Hashing m u k := by
  obtain ⟨⟨p, r, rfl⟩, -, hmessage, -⟩ := hu
  have hcore : SameCore s { s with port := p, turns := r } := ⟨p, r, rfl⟩
  cases h with
  | unopened hs hb hdue hk => exact .unopened hs hb (hmessage.trans hdue) hk
  | opened hs hr hm hdue hk => exact .opened (hs.of_sameCore hcore) hr hm (hmessage.trans hdue) hk
  | closed hs hr hdue hk => exact .closed (hs.of_sameCore hcore) hr (hmessage.trans hdue) hk

/-- R151: RDS answered leaves the message where it is. -/
theorem Hashing.respond_rds (hfirst : s.due = .command 0x5000#16 :: s.turns) (ok : Bool) (data : Word) :
    Hashing m (s.respond ok data) k := by
  have hmessage : (s.respond ok data).due.filter ofMessage = s.due.filter ofMessage := by
    rw [hfirst, due_of_free rfl]
    rfl
  cases h with
  | unopened hs hb hdue hk => exact .unopened hs hb (hmessage.trans hdue) hk
  | opened hs hr hm hdue hk => exact .opened (hs.respond _ _) hr hm (hmessage.trans hdue) hk
  | closed hs hr hdue hk => exact .closed (hs.respond _ _) hr (hmessage.trans hdue) hk

/-- R200: a step of the core is one of the micro-operations owed. -/
theorem Hashing.coreStep {t : State} (hc : CoreStep s t) : ∃ k', k = 1 + k' ∧ Hashing m t k' := by
  have hsame := hc.due_eq
  have hleft := hc.stepsLeft_succ (h.inv_of_busy hc.busy)
  cases h with
  | unopened _ hb =>
    rw [hc.busy] at hb
    cases hb
  | opened hs hr hm hdue hk =>
    exact ⟨_, by omega, .opened (hc.computes hs) (hc.receiving_iff.2 hr) hm (hsame ▸ hdue) rfl⟩
  | closed hs hr hdue hk =>
    exact ⟨_, by omega, .closed (hc.computes hs) (hc.receiving_iff.not.2 hr) (hsame ▸ hdue) rfl⟩

/-- R160: where the core is not busy the next word of the message is accepted, with the answer (1, 0). -/
theorem Hashing.accepts {w : CmdWord} (hshort : m.length < 2 ^ 61) (hb : s.ph.busy = false) (hw : w ≠ 0x5000#16)
    (hfirst : s.due = .command w :: s.turns) :
    ∃ i t, decodeCommand w = .ok i ∧ exec i s = .next t ∧ AnsweredZero s t ∧ Hashing m t k := by
  have hmessage : s.due.filter ofMessage = .command w :: s.turns.filter ofMessage := by
    rw [hfirst, List.filter_cons_of_pos (show ofMessage (.command w) = true from decide_eq_true hw)]
  have hrest {t : State} (ht : AnsweredZero s t) : t.due.filter ofMessage = s.turns.filter ofMessage := by
    obtain ⟨hport, hturns, -⟩ := ht
    rw [due_of_free hport, hturns]
  cases h with
  | unopened hs hb hdue hk =>
    rw [hmessage, messageTurns_eq_cons] at hdue
    obtain ⟨hword, htail⟩ := List.cons.inj hdue
    cases hword
    obtain ⟨t, he, ht, hr, ha⟩ := exec_init_computes hs hb
    refine ⟨.init, t, rfl, he, ha, .opened ht hr rfl ((hrest ha).trans htail) ?_⟩
    simp [hk, stepsLeft_init hb he, Reference.stepsInAll]
  | @opened m' l hs hr hm hdue hk =>
    have hp := absorb_of_receiving hb hr
    rw [stepsLeft_of_not_busy hb] at hk
    have hlen : m'.length + l.length = m.length := by rw [← hm, List.length_append]
    cases l with
    | nil =>
      rw [hmessage] at hdue
      obtain ⟨hword, htail⟩ := List.cons.inj hdue
      cases hword
      obtain rfl : m' = m := by simpa using hm
      obtain ⟨t, he, ht, hr, ha⟩ := hs.exec_fin hp
      refine ⟨.fin, t, rfl, he, ha, .closed ht hr ((hrest ha).trans htail) ?_⟩
      simp [hk, hs.stepsLeft_fin hp he]
    | cons d l =>
      rw [hmessage] at hdue
      obtain ⟨hword, htail⟩ := List.cons.inj hdue
      cases hword
      rw [List.length_cons] at hlen
      obtain ⟨t, he, ht, hr, ha⟩ := hs.exec_wrb hp d (by omega)
      refine ⟨.wrb d, t, decodeCommand_wrb d, he, ha, .opened ht hr (by simpa using hm) ((hrest ha).trans htail) ?_⟩
      have hleft := hs.stepsLeft_wrb hp he hr
      rw [hk, hleft, List.length_append, List.length_singleton]
      omega
  | closed hs hr hdue hk =>
    rw [hmessage] at hdue
    cases hdue

/-- R160: where the core is not busy and nothing is due, the message is closed and its digest computed. -/
theorem Hashing.hashed (hb : s.ph.busy = false) (hnil : s.due = []) : Hashed m s ∧ k = 0 := by
  cases h with
  | unopened _ _ hdue | opened _ _ _ hdue => simp [hnil, messageTurns_eq_cons, closingTurns] at hdue
  | closed hs hr hdue hk =>
    exact ⟨⟨hs, hs.done_of_not_receiving hb hr, hnil⟩, hk.trans (stepsLeft_of_not_busy hb)⟩

/-! ## The steps of a message -/

/-- R151: RDS delivered is answered in every phase. -/
theorem Hashing.advances_rds {u : State} (hdel : Delivers s 0x5000#16 u) : Advances m s k := by
  have hu := h.of_turnTaken (.of_delivers hdel)
  have hstep := (step_of_delivers_legal hdel rfl (.inl rfl)).trans (exec_rds_eq hu.seqLegal)
  exact .of_no_micro hstep (accounts_of_answered hdel rfl rfl rfl ⟨rfl, nofun⟩)
    (hu.respond_rds (due_of_delivers hdel).2 _ _)

/-- R80, R194: the core takes its own step if it has one, unless RDS is delivered. -/
theorem Hashing.exists_turnTaken :
    (∃ u, Delivers s 0x5000#16 u) ∨ ∃ u, TurnTaken s u ∧ ∀ t, CoreStep u t → step s = .next t := by
  obtain hnil | ⟨r, ht⟩ | ⟨w, u, hdel⟩ := due_cases h.reset_not_due
  · obtain ⟨hport, ht⟩ : s.port = none ∧ s.turns = [] := by simpa [State.due] using hnil
    have hq : s.quietOutside = true := by simp [State.quietOutside, hport, ht]
    exact .inr ⟨s, .refl s, fun t ⟨i, hsel, he, _⟩ => (step_of_quietOutside hq hsel).trans he⟩
  · exact .inr ⟨_, .of_core_turn ht, fun t ⟨i, hsel, he, _⟩ => (step_of_core_turn ht hsel).trans he⟩
  · by_cases hw : w = 0x5000#16
    · exact .inl ⟨u, hw ▸ hdel⟩
    · refine .inr ⟨u, .of_delivers hdel, fun t ⟨i, hsel, he, _⟩ => ?_⟩
      obtain ⟨p, r, rfl⟩ := sameCore_of_delivers hdel
      exact (step_of_delivers_held hdel hw hsel).trans he

/-- R80, R160: a word of the message delivered to a core that is not busy is answered. -/
theorem Hashing.advances_message {u : State} {w : CmdWord} (hshort : m.length < 2 ^ 61) (hb : s.ph.busy = false)
    (hw : w ≠ 0x5000#16) (hdel : Delivers s w u) : Advances m s k := by
  have hu := h.of_turnTaken (.of_delivers hdel)
  have hub : u.ph.busy = false := by
    obtain ⟨p, r, rfl⟩ := sameCore_of_delivers hdel
    exact hb
  obtain ⟨i, t, hd, he, ⟨hport, hturns, hresp⟩, ht⟩ := hu.accepts hshort hub hw (due_of_delivers hdel).2
  exact .of_no_micro ((step_of_delivers_legal hdel hd (.inr hb)).trans he)
    (accounts_of_answered hdel hport hturns hresp ⟨rfl, fun _ => rfl⟩) ht

/-- R178: a turn left to a core that is not busy does nothing. -/
theorem Hashing.advances_quiet {r : List Turn} (hb : s.ph.busy = false) (ht : s.turns = .core :: r) :
    Advances m s k := by
  have htaken := TurnTaken.of_core_turn ht
  exact .of_no_micro (step_quiet_of_core_turn ht hb (idx_eq_zero_of_seqLegal h.seqLegal hb))
    (.idle htaken.words (count_due_of_core_turn ht) rfl) (h.of_turnTaken htaken)

/-- R200: a busy core answers RDS or performs one of the micro-operations owed. -/
theorem Hashing.advances_of_busy (hb : s.ph.busy = true) : Advances m s k := by
  obtain ⟨u, hdel⟩ | ⟨u, hu, hstep⟩ := h.exists_turnTaken
  · exact h.advances_rds hdel
  · have hhash := h.of_turnTaken hu
    have hub : u.ph.busy = true := by
      obtain ⟨p, r, rfl⟩ := hu.core
      exact hb
    obtain ⟨t, hc⟩ := (hhash.inv_of_busy hub).exists_coreStep hub
    obtain ⟨k', hk, ht⟩ := hhash.coreStep hc
    exact ⟨t, 1, k', hk, hstep t hc, hc.accounts hu, ht⟩

/-- R160: all is done, or there is a step towards it. -/
theorem Hashing.hashed_or_advances (hshort : m.length < 2 ^ 61) : (Hashed m s ∧ k = 0) ∨ Advances m s k := by
  cases hb : s.ph.busy
  · obtain hnil | ⟨r, ht⟩ | ⟨w, u, hdel⟩ := due_cases h.reset_not_due
    · exact .inl (h.hashed hb hnil)
    · exact .inr (h.advances_quiet hb ht)
    · by_cases hw : w = 0x5000#16
      · exact .inr (h.advances_rds (hw ▸ hdel))
      · exact .inr (h.advances_message hshort hb hw hdel)
  · exact .inr (h.advances_of_busy hb)

end

/-- R160: the run of a message to its digest. -/
theorem Hashing.exists_answersAll {m : List Byte} {s : State} {k : Nat} (h : Hashing m s k)
    (hshort : m.length < 2 ^ 61) : ∃ t, AnswersAll s t k ∧ Hashed m t := by
  obtain ⟨hend, rfl⟩ | ⟨t, j, k', rfl, hstep, hj, ht⟩ := h.hashed_or_advances hshort
  · exact ⟨s, .refl hend.due, hend⟩
  · have hlt := hj.scheduleLeft_lt k'
    obtain ⟨u, hall, hend⟩ := ht.exists_answersAll hshort
    exact ⟨u, hall.head hstep hj, hend⟩
termination_by scheduleLeft s k

/-! ## The digest read -/

/-- R150: in DONE the byte read is the byte of the digest. -/
theorem Hashed.exec_rdb {m : List Byte} {t : State} (h : Hashed m t) (j : Fin 20) :
    exec (.rdb j) t = .next (t.respond true (((Reference.digest m).bytes.getD j.val 0#8).setWidth 32)) := by
  rw [getD_bytes, ← h.digest_eq]
  exact (exec_rdb_eq_accept j t).trans (accept_legal h.computes.inv.seq (decide_eq_true h.ph))

/-- Settles O53: `Hashing.exists_answersAll` from the message that is still to be opened. -/
theorem digestOfEveryMessage : Obligations.DigestOfEveryMessage := by
  intro m s hshort hs hb hport hturns
  have hhash : Hashing m s (Reference.stepsInAll m.length) :=
    .unopened hs hb (due_of_free hport ▸ hturns) rfl
  obtain ⟨t, ⟨n, rs, hrun, hresp, hall, hlow, hhigh⟩, hend⟩ := hhash.exists_answersAll hshort
  rw [due_of_free hport] at hall hlow hhigh
  obtain ⟨htport, htturns⟩ : t.port = none ∧ t.turns = [] := by simpa [State.due] using hend.due
  have hinv := hend.computes.inv
  exact ⟨n, t, rs, hrun, hend.ph, idx_eq_zero_of_seqLegal hinv.seq hend.not_busy, hinv.valid.2 hend.ph,
    hinv.err_of_ne_fault (by simp [hend.ph]), htturns, htport, hresp, hall, hlow, hhigh, hend.digest_eq,
    hend.computes.exec_rdw hend.not_busy hend.not_receiving, hend.exec_rdb⟩

end Sys2Proof.Machine
end

section
/-! PROOFS. The fault mechanism of spec/60_exceptions.md: how the core keeps quiet (R178), the way into FAULT (R165,
R170, R171), and what can happen there (R172 to R174). -/

namespace Sys2Proof.Machine

/-! ## The core that keeps quiet (R178) -/

/-- R178: a core that is not busy does nothing while no turn is left and no word is at the port. -/
theorem step_quiet_of_no_turn {s : State} (ht : s.turns = []) (hport : s.port = none) (hb : s.ph.busy = false)
    (hk : s.idx = 0) : step s = .next s := by
  simp [step, State.nextMove, State.ownMove, ht, hport, coreMove_quiet hb hk]

/-- Settles O6: the core's own step does nothing in a phase that is not busy. -/
theorem quietWhenNotBusy : Obligations.QuietWhenNotBusy :=
  fun _ hb hk hport => ⟨fun ht => step_quiet_of_no_turn ht hport hb hk, fun _ ht => step_quiet_of_core_turn ht hb hk⟩

/-! ## In FAULT (R172) -/

/-- R72: the word of RDS. -/
theorem eq_of_decodeCommand_rds {w : CmdWord} (h : decodeCommand w = .ok .rds) : w = 0x5000#16 := by
  obtain ⟨hw, -⟩ := encodeOfDecode (.cmd16 w) .rds h
  cases hw
  rfl

/-- R80, case 3: INIT and RDS are the only commands that are legal in FAULT. -/
theorem refusedInFault_of_isCommand {i : Instr} (hi : i.isCommand = true) (hinit : i ≠ .init) (hrds : i ≠ .rds) :
    Claims.RefusedInFault i := by
  cases i with
  | init => exact absurd rfl hinit
  | rds => exact absurd rfl hrds
  | wrb d => exact refusedInFault_of_accept (exec_wrb_eq_accept d) rfl
  | fin =>
    obtain ⟨-, -, hrefused, -⟩ := finRule
    exact hrefused
  | rdw k =>
    obtain ⟨-, hrefused, -⟩ := read_of_accept (exec_rdw_eq_accept k)
    exact hrefused
  | rdb j =>
    obtain ⟨-, hrefused, -⟩ := read_of_accept (exec_rdb_eq_accept j)
    exact hrefused
  | padm | padz | padl | ldw | exp | lds | rnd | chn | latch => cases hi

/-- R172: an illegal word accepted in FAULT is refused. -/
theorem acceptIllegal_of_fault {s : State} (hp : s.ph = .fault) (hk : s.idx = 0) :
    s.acceptIllegal = .next (Claims.answered s false (BitVec.ofNat 32 (Claims.codeOf s.err))) :=
  (accept_refused (seqLegal_of_idx_zero (hp ▸ rfl) hk) rfl hp).trans (by rw [refuseInFault_eq_answered])

/-- R172: in FAULT a word delivered is refused, legal or illegal, unless it is the word of INIT or of RDS. -/
theorem step_refuses_of_fault {s u : State} {w : CmdWord} (hdel : Claims.Delivers s w u) (hp : s.ph = .fault)
    (hk : s.idx = 0) (hrds : w ≠ 0x5000#16) (hinit : w ≠ 0x0000#16) :
    step s = .next (Claims.answered u false (BitVec.ofNat 32 (Claims.codeOf u.err))) := by
  have hb : s.ph.busy = false := hp ▸ rfl
  obtain ⟨p, r, rfl⟩ := sameCore_of_delivers hdel
  cases hd : decodeCommand w with
  | ok i =>
    rw [step_of_delivers_legal hdel hd (.inr hb)]
    have hi : i ≠ .init := fun h => hinit (eq_of_decodeCommand_init (h ▸ hd))
    have hr : i ≠ .rds := fun h => hrds (eq_of_decodeCommand_rds (h ▸ hd))
    exact refusedInFault_of_isCommand (isCommand_of_decodeCommand hd) hi hr _ hp hk
  | error e =>
    rw [step_of_delivers_illegal hdel hd hb]
    exact acceptIllegal_of_fault hp hk

/-- Settles O8: the core keeps quiet in FAULT; RDS and INIT by their rules; every other word is refused. -/
theorem faultRefusesEveryOtherWord : Obligations.FaultRefusesEveryOtherWord := by
  intro s hp hk
  have hb : s.ph.busy = false := hp ▸ rfl
  refine ⟨fun hport ht => step_quiet_of_no_turn ht hport hb hk, fun r ht => step_quiet_of_core_turn ht hb hk, ?_⟩
  intro u w hdel
  obtain ⟨p, r, rfl⟩ := sameCore_of_delivers hdel
  refine ⟨?_, ?_, fun hrds hinit => step_refuses_of_fault hdel hp hk hrds hinit⟩
  · rintro rfl
    obtain ⟨hd, hrule⟩ := rdsRule
    obtain ⟨v, he, -, -, hfault, -, hcode, -⟩ := hrule { s with port := p, turns := r } (seqLegal_of_idx_zero hb hk)
    exact ⟨v, (step_of_delivers_legal hdel hd (.inl rfl)).trans he, hfault, hcode⟩
  · rintro rfl
    obtain ⟨hd, -, hrule⟩ := initRule
    have he := hrule { s with port := p, turns := r } hk (.inr (.inr (.inr hp)))
    exact ⟨_, (step_of_delivers_legal hdel hd (.inr hb)).trans he, rfl, rfl, rfl⟩

/-! ## The way out of FAULT (R172 to R174) -/

/-- R172: a declined command changes no register in FAULT. -/
theorem Declines.same_of_fault {s t : State} (h : Declines s t) (hp : s.ph = .fault) (r : Reg) : r.same s t := by
  obtain hsame | ⟨hne, -⟩ := h.frame
  · exact hsame r
  · exact absurd hp hne

/-- R172: in FAULT only INIT and RDS are performed. -/
theorem Performs.init_or_rds_of_fault {i : Instr} {s t : State} (h : Performs i s t) (hf : s.ph = .fault) :
    (i = .init ∧ t = s.openComputation.respond true 0#32) ∨ (i = .rds ∧ t = s.respond true s.status) := by
  cases h with
  | init => exact .inl ⟨rfl, rfl⟩
  | rds => exact .inr ⟨rfl, rfl⟩
  | wrbOpen hp | wrbFull hp | fin hp | rdw hp | rdb hp | padmOpen hp | padmFull hp | padzEnd hp | padzOpen hp
  | padzFull hp | padlOpen hp | padlFull hp | ldwNext hp | ldwLast hp | expNext hp | expLast hp | lds hp | rndNext hp
  | rndLast hp | chn hp | latch hp =>
    rw [hf] at hp
    cases hp

/-- R172, R173: an instruction run in FAULT changes no register, or is INIT. -/
theorem exec_of_fault {i : Instr} {s t : State} (h : exec i s = .next t) (hp : s.ph = .fault) :
    (∀ r : Reg, r.same s t) ∨ (i = .init ∧ t = s.openComputation.respond true 0#32) := by
  obtain hd | ⟨hldw, -⟩ | hperf := exec_next h
  · exact .inl (hd.same_of_fault hp)
  · rw [hp] at hldw
    cases hldw
  · obtain hinit | ⟨-, rfl⟩ := hperf.init_or_rds_of_fault hp
    · exact .inr hinit
    · exact .inl fun r => r.same_refl s

/-- The registers are neither the port nor the turns. -/
theorem SameCore.same_iff {s u : State} (h : SameCore s u) (r : Reg) (t : State) : r.same u t ↔ r.same s t := by
  obtain ⟨p, turns, rfl⟩ := h
  cases r <;> exact .rfl

/-- Settles O33: INIT is a command, so that a step runs it only for its word, delivered. -/
theorem faultIsSticky : Obligations.FaultIsSticky := by
  intro s t hp hk h
  obtain ⟨r, hr, rfl⟩ | ⟨u, hu, hm⟩ := step_next h
  · exact .inr (.inr ⟨rfl, r, hr⟩)
  · have hup : u.ph = .fault := by
      obtain ⟨p, r, rfl⟩ := hu
      exact hp
    have keep (hsame : ∀ r : Reg, r.same u t) (r : Reg) : r.same s t := (hu.same_iff r t).1 (hsame r)
    cases hm with
    | quiet ht => exact .inl (keep fun r => ht ▸ r.same_refl u)
    | illegal he => exact .inl (keep ((declines_of_acceptIllegal he).same_of_fault hup))
    | command hw hd he =>
      obtain hsame | ⟨rfl, rfl⟩ := exec_of_fault he hup
      · exact .inl (keep hsame)
      · exact .inr (.inl ⟨rfl, rfl, rfl, rfl, u, eq_of_decodeCommand_init hd ▸ hw⟩)
    | micro hi he =>
      obtain hsame | ⟨rfl, -⟩ := exec_of_fault he hup
      · exact .inl (keep hsame)
      · cases hi

/-! ## The way into FAULT (R165, R170, R171) -/

/-- R165: the faults an instruction raises, one constructor for each cause, PROTOCOL in its two forms (R168). -/
inductive Raises (s : State) : Instr → State → Prop
  | lenOverflow {d} (hp : s.ph = .absorb) (hb : s.bitlen = 0xFFFFFFFFFFFFFFF8#64) :
      Raises s (.wrb d) (s.raiseCommand .lenOverflow)
  | internalInvariant (hp : s.ph = .ldw) (hk : s.idx = 0) (hf : s.fill.val ≠ 64) :
      Raises s (.ldw 0) (s.raise .internalInvariant)
  | intake {i} (hp : s.ph = .idle ∨ s.ph = .done) (hi : i = .fin ∨ ∃ d, i = .wrb d) :
      Raises s i (s.raiseCommand .protocol)
  | read {i} (hp : s.ph = .idle ∨ s.ph = .absorb) (hi : (∃ k, i = .rdw k) ∨ ∃ j, i = .rdb j) :
      Raises s i (s.raiseCommand .protocol)

theorem Phase.idle_or_absorb_or_done {p : Phase} (hb : p.busy = false) (hf : p ≠ .fault) :
    p = .idle ∨ p = .absorb ∨ p = .done := by
  revert hb hf
  cases p <;> decide

/-- R168, R170: a command out of its phases enters FAULT from IDLE, ABSORB or DONE, by PROTOCOL. -/
theorem OutOfPhase.protocol_of_enters {legal : Phase → Bool} {s t : State} (h : OutOfPhase legal s t)
    (hs : s.ph ≠ .fault) (ht : t.ph = .fault) :
    legal s.ph = false ∧ (s.ph = .idle ∨ s.ph = .absorb ∨ s.ph = .done) ∧ t = s.raiseCommand .protocol := by
  obtain ⟨hl, ⟨-, rfl⟩ | ⟨hf, -⟩ | ⟨hb, hf, rfl⟩⟩ := h
  · exact absurd ht hs
  · exact absurd hf hs
  · exact ⟨hl, Phase.idle_or_absorb_or_done hb hf, rfl⟩

/-- R168: WRB and FIN where no message is open. -/
theorem OutOfPhase.raises_intake {i : Instr} {s t : State} (h : OutOfPhase (fun p => decide (p = .absorb)) s t)
    (hs : s.ph ≠ .fault) (ht : t.ph = .fault) (hi : i = .fin ∨ ∃ d, i = .wrb d) : Raises s i t := by
  obtain ⟨hl, hp | hp | hp, rfl⟩ := h.protocol_of_enters hs ht
  · exact .intake (.inl hp) hi
  · exact absurd hp (of_decide_eq_false hl)
  · exact .intake (.inr hp) hi

/-- R168: RDW and RDB where no digest is available. -/
theorem OutOfPhase.raises_read {i : Instr} {s t : State} (h : OutOfPhase (fun p => decide (p = .done)) s t)
    (hs : s.ph ≠ .fault) (ht : t.ph = .fault) (hi : (∃ k, i = .rdw k) ∨ ∃ j, i = .rdb j) : Raises s i t := by
  obtain ⟨hl, hp | hp | hp, rfl⟩ := h.protocol_of_enters hs ht
  · exact .read (.inl hp) hi
  · exact .read (.inr hp) hi
  · exact absurd hp (of_decide_eq_false hl)

/-- R76: in LDW the sequencer word selects LDW with the index IDX. -/
theorem eq_ldw_of_selects {s : State} {i : Instr} (hp : s.ph = .ldw) (h : s.selects i = true) :
    ∃ k : Fin 16, i = .ldw k ∧ s.idx.val = k.val := by
  rw [selects_iff, hp, seqInstr] at h
  split at h
  · cases h
    exact ⟨_, rfl, rfl⟩
  · cases h

/-- R114: LDW enters FAULT at index 0 on a block that is not full. -/
theorem execLdw_raises {k : Fin 16} {s t : State} (h : exec (.ldw k) s = .next t) (ht : t.ph = .fault) :
    Raises s (.ldw k) t := by
  obtain ⟨hp, hk, ⟨h0, hf, rfl⟩ | ⟨-, -, rfl⟩ | ⟨-, -, rfl⟩⟩ := execLdw_next h
  · obtain rfl : k = 0 := Fin.ext h0
    exact .internalInvariant hp (Fin.ext hk) hf
  · cases ht
  · cases hp.symm.trans ht

/-- R165: LDW is the one micro-operation that enters FAULT. -/
theorem exec_micro_raises {i : Instr} {s t : State} (hi : i.isCommand = false) (h : exec i s = .next t)
    (hs : s.ph ≠ .fault) (ht : t.ph = .fault) : Raises s i t := by
  obtain ⟨hp, -⟩ | hperf := exec_micro_next hi h
  · obtain ⟨op, hop⟩ := exists_exec_eq_perform hi s
    obtain ⟨hsel, -⟩ := perform_next (hop.symm.trans h)
    obtain ⟨k, rfl, -⟩ := eq_ldw_of_selects hp hsel
    exact execLdw_raises h ht
  · exact absurd ht (hperf.ph_ne_fault hs)

/-- R165, R170: everything an instruction that enters FAULT can have done. -/
theorem exec_raises {i : Instr} {s t : State} (h : exec i s = .next t) (hs : s.ph ≠ .fault) (ht : t.ph = .fault) :
    Raises s i t := by
  cases i with
  | init =>
    obtain ⟨-, ⟨-, rfl⟩ | ⟨-, rfl⟩⟩ := execInit_next h
    · exact absurd ht hs
    · cases ht
  | wrb d =>
    obtain ⟨-, ⟨hp, hb, rfl⟩ | ⟨-, -, _, rfl⟩ | ⟨-, -, _, rfl⟩ | hout⟩ := execWrb_next h
    · exact .lenOverflow hp hb
    · exact absurd ht hs
    · cases ht
    · exact hout.raises_intake hs ht (.inr ⟨d, rfl⟩)
  | fin =>
    obtain ⟨-, ⟨-, rfl⟩ | hout⟩ := execFin_next h
    · cases ht
    · exact hout.raises_intake hs ht (.inl rfl)
  | rdw k =>
    obtain ⟨-, ⟨-, rfl⟩ | hout⟩ := execRdw_next h
    · exact absurd ht hs
    · exact hout.raises_read hs ht (.inl ⟨k, rfl⟩)
  | rdb j =>
    obtain ⟨-, ⟨-, rfl⟩ | hout⟩ := execRdb_next h
    · exact absurd ht hs
    · exact hout.raises_read hs ht (.inr ⟨j, rfl⟩)
  | rds =>
    obtain ⟨-, rfl⟩ := execRds_next h
    exact absurd ht hs
  | padm | padz | padl | ldw | exp | lds | rnd | chn | latch => exact exec_micro_raises rfl h hs ht

/-- R171: from `s` to `t` fault entry with the cause `x` has happened: its own row of R35 is written, and no other
register. -/
def FaultEntry (s t : State) (x : ErrCode) : Prop :=
  (∀ r : Reg, r ∉ faultWrites → r.same s t) ∧ t.dvalid = false ∧ t.err = (if s.err = .none then x else s.err)

theorem faultEntry_raise (s : State) (x : ErrCode) : FaultEntry s (s.raise x) x :=
  ⟨fun _ hr => Reg.same_raise hr s x, rfl, rfl⟩

theorem faultEntry_raiseCommand (s : State) (x : ErrCode) : FaultEntry s (s.raiseCommand x) x :=
  ⟨fun _ hr => Reg.same_raise hr s x, rfl, rfl⟩

/-- R165: the phases and registers in which a step raises the fault `x`. -/
def CauseHolds (s : State) (x : ErrCode) : Prop :=
  (x = .lenOverflow ∧ s.ph = .absorb ∧ s.bitlen = 0xFFFFFFFFFFFFFFF8#64) ∨
  (x = .internalInvariant ∧ s.ph = .ldw ∧ s.idx = 0 ∧ s.fill.val ≠ 64) ∨
  ((x = .protocol ∨ x = .illegalCmd) ∧ (s.ph = .idle ∨ s.ph = .absorb ∨ s.ph = .done))

theorem Raises.faultEntry {i : Instr} {s t : State} (h : Raises s i t) : ∃ x, FaultEntry s t x ∧ CauseHolds s x := by
  cases h with
  | lenOverflow hp hb => exact ⟨_, faultEntry_raiseCommand s _, .inl ⟨rfl, hp, hb⟩⟩
  | internalInvariant hp hk hf => exact ⟨_, faultEntry_raise s _, .inr (.inl ⟨rfl, hp, hk, hf⟩)⟩
  | intake hp => exact ⟨_, faultEntry_raiseCommand s _, .inr (.inr ⟨.inl rfl, hp.imp_right .inr⟩)⟩
  | read hp => exact ⟨_, faultEntry_raiseCommand s _, .inr (.inr ⟨.inl rfl, hp.imp_right .inl⟩)⟩

/-- R169: an illegal word enters FAULT by ILLEGAL_CMD. -/
theorem acceptIllegal_faultEntry {s t : State} (h : s.acceptIllegal = .next t) (hs : s.ph ≠ .fault)
    (ht : t.ph = .fault) : ∃ x, FaultEntry s t x ∧ CauseHolds s x := by
  obtain ⟨-, ⟨-, rfl⟩ | ⟨hf, -⟩ | ⟨hb, hf, rfl⟩⟩ := acceptIllegal_next h
  · exact absurd ht hs
  · exact absurd hf hs
  · exact ⟨_, faultEntry_raiseCommand s _, .inr (.inr ⟨.inr rfl, Phase.idle_or_absorb_or_done hb hf⟩)⟩

/-- Everything a step that enters FAULT can have done. -/
theorem step_faultEntry {s t : State} (h : step s = .next t) (hs : s.ph ≠ .fault) (ht : t.ph = .fault) :
    ∃ x, FaultEntry s t x ∧ CauseHolds s x := by
  obtain ⟨r, -, rfl⟩ | ⟨u, hu, hm⟩ := step_next h
  · cases ht
  · obtain ⟨x, ⟨hframe, hvalid, herr⟩, hcause⟩ : ∃ x, FaultEntry u t x ∧ CauseHolds u x := by
      have hus : u.ph ≠ .fault := by
        obtain ⟨p, r, rfl⟩ := hu
        exact hs
      cases hm with
      | quiet htu => exact absurd (htu ▸ ht) hus
      | illegal he => exact acceptIllegal_faultEntry he hus ht
      | command _ _ he => exact (exec_raises he hus ht).faultEntry
      | micro _ he => exact (exec_raises he hus ht).faultEntry
    have hframe' (r : Reg) (hr : r ∉ faultWrites) : r.same s t := (hu.same_iff r t).1 (hframe r hr)
    obtain ⟨p, r, rfl⟩ := hu
    exact ⟨x, ⟨hframe', hvalid, herr⟩, hcause⟩

/-- Settles O9: the causes of an instruction are those of `Raises`; a step runs one instruction at most, or accepts an
illegal word. -/
theorem faultsAreThese : Obligations.FaultsAreThese := by
  refine ⟨fun i s t hs h ht => ?_, fun s t hs h ht => ?_⟩
  · simp only [← raiseCommand_eq_faulted]
    cases exec_raises h hs ht with
    | lenOverflow hp hb => exact .inl ⟨hp, hb, ⟨_, rfl⟩, rfl⟩
    | internalInvariant hp _ hf => exact .inr (.inl ⟨hp, hf, rfl, rfl⟩)
    | intake hp hi => exact .inr (.inr (.inl ⟨hp, hi, rfl⟩))
    | read hp hi => exact .inr (.inr (.inr ⟨hp, hi, rfl⟩))
  · obtain ⟨x, ⟨hframe, hvalid, herr⟩, hcause⟩ := step_faultEntry h hs ht
    exact ⟨hframe, hvalid, x, herr, hcause⟩

end Sys2Proof.Machine
end

section
/-! PROOFS. Resets and interleavings (spec 70_reset_and_hazards.md): the reset event (R190), what the sequencer depends
on (R202), and the length of the core's busy spans (R194, R200). -/

namespace Sys2Proof.Machine

open Relation (ReflTransGen)

/-! ## The reset event (R190) -/

theorem step_of_reset_turn {s : State} {r : List Turn} (ht : s.turns = .reset :: r) :
    step s = .next (State.resetEvent { s with turns := r }) := by
  simp [step, State.nextMove, ht]

/-- Settles O34: the reset event is the step, whatever the state. -/
theorem resetEventFromAnyState : Obligations.ResetEventFromAnyState :=
  fun _ _ ht => ⟨_, step_of_reset_turn ht, rfl, rfl, rfl, rfl, rfl, rfl, rfl, rfl⟩

/-! ## What a micro-operation does to the sequencer -/

/-- R95: `pushOr_matched` for bytes that may differ: only FILL tells whether a push completes the block. -/
theorem pushOr_matched_bytes {R : State → State → Prop} {s s' : State} {v v' : Byte} {r : Resume}
    {closed stay closed' stay' : State → State} (hf : s.fill = s'.fill)
    (hopen : ∀ h h', R (stay (s.store v h)) (stay' (s'.store v' h')))
    (hfull : ∀ h h', R (closed ((s.store v h).startBlock r)) (closed' ((s'.store v' h').startBlock r))) :
    Matched R (s.pushOr v r closed stay) (s'.pushOr v' r closed' stay') := by
  intro t ht
  obtain ⟨hlt, rfl⟩ | ⟨heq, rfl⟩ := pushOr_next ht
  · have h64 : s.fill.val < 64 := Nat.lt_succ_of_lt hlt
    exact ⟨_, pushOr_open (hf ▸ hlt), hopen h64 (hf ▸ h64)⟩
  · have h64 : s.fill.val < 64 := Nat.lt_succ_of_le heq.le
    exact ⟨_, pushOr_completes (hf ▸ heq), hfull h64 (hf ▸ h64)⟩

/-- The registers that steer the micro-operations agree. -/
structure SameSeq (s s' : State) : Prop where
  ph : s.ph = s'.ph
  idx : s.idx = s'.idx
  rsm : s.rsm = s'.rsm
  fill : s.fill = s'.fill

theorem SameSeq.refl (s : State) : SameSeq s s := ⟨rfl, rfl, rfl, rfl⟩

section
variable {s s' : State} (h : SameSeq s s')
include h

theorem SameSeq.fill_succ_eq (hf : s.fill.val < 64) (hf' : s'.fill.val < 64) :
    (⟨s.fill.val + 1, Nat.succ_lt_succ hf⟩ : Fin 65) = ⟨s'.fill.val + 1, Nat.succ_lt_succ hf'⟩ :=
  Fin.ext (by simp [h.fill])

theorem SameSeq.perform {i : Instr} {op op' : Outcome} (hop : Matched SameSeq op op') :
    Matched SameSeq (s.perform i op) (s'.perform i op') :=
  perform_matched h.ph h.idx fun _ => hop

/-- R95: block processing starts at the same place. -/
theorem SameSeq.pushOr {v v' : Byte} {r : Resume} {stay stay' : State → State}
    (hopen : ∀ h h', SameSeq (stay (s.store v h)) (stay' (s'.store v' h'))) :
    Matched SameSeq (s.pushOr v r (fun t => t) stay) (s'.pushOr v' r (fun t => t) stay') :=
  pushOr_matched_bytes h.fill hopen fun hf hf' => ⟨rfl, rfl, rfl, h.fill_succ_eq hf hf'⟩

/-- R202: PH, IDX, RSM and FILL after a micro-operation depend on nothing but themselves before it. -/
theorem SameSeq.exec_micro {i : Instr} (hi : i.isCommand = false) : Matched SameSeq (exec i s) (exec i s') := by
  have ⟨hph, hidx, hrsm, hfill⟩ := h
  cases i with
  | init | wrb | fin | rdw | rdb | rds => cases hi
  | padm => exact h.perform (h.pushOr fun hf hf' => ⟨rfl, hidx, hrsm, h.fill_succ_eq hf hf'⟩)
  | padz =>
    refine h.perform ?_
    rw [← hfill]
    split
    · exact matched_next ⟨rfl, rfl, hrsm, hfill⟩
    · exact h.pushOr fun hf hf' => ⟨hph, hidx, hrsm, h.fill_succ_eq hf hf'⟩
  | padl k => exact h.perform (h.pushOr fun hf hf' => ⟨hph, rfl, hrsm, h.fill_succ_eq hf hf'⟩)
  | ldw k =>
    refine h.perform ?_
    rw [← hfill]
    split
    · exact matched_next ⟨rfl, hidx, hrsm, hfill⟩
    · refine matched_next ?_
      split
      · exact ⟨rfl, rfl, hrsm, hfill⟩
      · exact ⟨hph, rfl, hrsm, hfill⟩
  | exp k | rnd k =>
    refine h.perform (matched_next ?_)
    split
    · exact ⟨hph, rfl, hrsm, hfill⟩
    · exact ⟨rfl, rfl, hrsm, hfill⟩
  | lds => exact h.perform (matched_next ⟨rfl, rfl, hrsm, hfill⟩)
  | chn => exact h.perform (matched_next ⟨congrArg Resume.phase hrsm, rfl, hrsm, rfl⟩)
  | latch => exact h.perform (matched_next ⟨rfl, hidx, hrsm, hfill⟩)

theorem SameSeq.stepsLeft_eq : s.stepsLeft = s'.stepsLeft := by
  simp only [State.stepsLeft, h.ph, h.idx, h.rsm, h.fill]

end

/-! ## DVALID and ERR after a micro-operation -/

theorem Performs.flags {i : Instr} {s t : State} (h : Performs i s t) (hi : i.isCommand = false) :
    t.err = s.err ∧ t.dvalid = (s.dvalid || decide (t.ph = .done)) := by
  cases h with
  | init | wrbOpen | wrbFull | fin | rdw | rdb | rds => cases hi
  | chn => cases hr : s.rsm <;> simp [Resume.phase]
  | _ => simp [*]

/-- R33, R34: the phase that a micro-operation leads to tells what becomes of DVALID and ERR. -/
theorem exec_selected_flags {i : Instr} {s t : State} (hsel : s.selects i = true) (h : exec i s = .next t) :
    t.err = (if t.ph = .fault then (s.raise .internalInvariant).err else s.err) ∧
      t.dvalid = ((s.dvalid || decide (t.ph = .done)) && decide (t.ph ≠ .fault)) := by
  have hi := isCommand_of_selects hsel
  obtain ⟨-, -, rfl⟩ | hp := exec_micro_next hi h
  · simp
  · have hs : s.ph ≠ .fault := by
      intro hf
      have hb := busy_of_selects hsel
      simp [hf, Phase.busy] at hb
    have hf := hp.ph_ne_fault hs
    obtain ⟨herr, hvalid⟩ := hp.flags hi
    simp [hf, herr, hvalid]

/-- R27: no micro-operation writes BITLEN. -/
theorem exec_micro_bitlen {i : Instr} {s t : State} (hi : i.isCommand = false) (h : exec i s = .next t) :
    t.bitlen = s.bitlen := by
  obtain ⟨-, -, rfl⟩ | hp := exec_micro_next hi h
  · rfl
  · exact hp.bitlen_eq hi

/-! ## Words that differ in a message byte -/

/-- Two words of the same shape are equal or are two words of WRB. -/
theorem sameShape_cases {v w : CmdWord} (h : sameShape v w) :
    v = w ∨ ∃ d e : Byte, v = 0x10#8 ++ d ∧ w = 0x10#8 ++ e := by
  obtain rfl | ⟨hv, hw⟩ := h
  · exact .inl rfl
  · exact .inr ⟨_, _, (append_setWidth_of_and_eq hv).symm, (append_setWidth_of_and_eq hw).symm⟩

/-- R72: no word of WRB is that of RDS. -/
theorem wrb_ne_rds (d : Byte) : 0x10#8 ++ d ≠ 0x5000#16 := by
  intro h
  have hd := decodeCommand_wrb d
  rw [h] at hd
  cases hd

theorem sameShape_rds_iff {v w : CmdWord} (h : sameShape v w) : v = 0x5000#16 ↔ w = 0x5000#16 := by
  obtain rfl | ⟨d, e, rfl, rfl⟩ := sameShape_cases h
  · exact .rfl
  · exact iff_of_false (wrb_ne_rds d) (wrb_ne_rds e)

/-! ## The same control state (R202) -/

section
variable {s s' : State} (h : s.sameControl s')
include h

theorem State.sameControl.sameSeq : SameSeq s s' := ⟨h.ph, h.idx, h.rsm, h.fill⟩

/-- The responses are not compared, since their data may differ. -/
theorem State.sameControl.respond (ok : Bool) (data data' : Word) :
    (s.respond ok data).sameControl (s'.respond ok data') :=
  ⟨h.ph, h.idx, h.rsm, h.fill, h.bitlen, h.dvalid, h.err, h.fresh, .inl ⟨rfl, rfl⟩, h.turns⟩

theorem State.sameControl.raiseCommand (x : ErrCode) : (s.raiseCommand x).sameControl (s'.raiseCommand x) :=
  ⟨rfl, h.idx, h.rsm, h.fill, h.bitlen, rfl, by simp [h.err], h.fresh, .inl ⟨rfl, rfl⟩, h.turns⟩

theorem State.sameControl.openComputation : s.openComputation.sameControl s'.openComputation :=
  ⟨rfl, rfl, rfl, rfl, rfl, rfl, rfl, h.fresh, h.port, h.turns⟩

/-- R38: the free values of BITLEN and FILL depend on the number of resets only. -/
theorem State.sameControl.resetEvent : s.resetEvent.sameControl s'.resetEvent :=
  ⟨rfl, rfl, rfl, by simp [h.fresh], by simp [h.fresh], rfl, rfl, by simp [h.fresh], .inl ⟨rfl, rfl⟩, h.turns⟩

theorem State.sameControl.takeTurn {r r' : List Turn} (hr : List.Forall₂ Turn.sameShape r r') :
    State.sameControl { s with turns := r } { s' with turns := r' } :=
  ⟨h.ph, h.idx, h.rsm, h.fill, h.bitlen, h.dvalid, h.err, h.fresh, h.port, hr⟩

theorem State.sameControl.present {v w : CmdWord} (hw : sameShape v w) :
    State.sameControl { s with port := some v } { s' with port := some w } :=
  ⟨h.ph, h.idx, h.rsm, h.fill, h.bitlen, h.dvalid, h.err, h.fresh, .inr ⟨v, w, rfl, rfl, hw⟩, h.turns⟩

theorem State.sameControl.countByte : s.countByte.sameControl s'.countByte :=
  ⟨h.ph, h.idx, h.rsm, h.fill, by simp [h.bitlen], h.dvalid, h.err, h.fresh, h.port, h.turns⟩

/-- R95: FILL grows by one whatever the byte. -/
theorem State.sameControl.store {v v' : Byte} (hf : s.fill.val < 64) (hf' : s'.fill.val < 64) :
    (s.store v hf).sameControl (s'.store v' hf') :=
  ⟨h.ph, h.idx, h.rsm, h.sameSeq.fill_succ_eq hf hf', h.bitlen, h.dvalid, h.err, h.fresh, h.port, h.turns⟩

theorem State.sameControl.startBlock (r : Resume) : (s.startBlock r).sameControl (s'.startBlock r) :=
  ⟨rfl, rfl, rfl, h.fill, h.bitlen, h.dvalid, h.err, h.fresh, h.port, h.turns⟩

/-! ### The instructions -/

theorem State.sameControl.accept {legal : Phase → Bool} {x : ErrCode} {op op' : Outcome}
    (hop : Matched State.sameControl op op') :
    Matched State.sameControl (s.accept legal x op) (s'.accept legal x op') :=
  accept_matched h.ph h.idx h (h.respond _ _ _) (h.raiseCommand x) fun _ => hop

theorem State.sameControl.acceptIllegal : Matched State.sameControl s.acceptIllegal s'.acceptIllegal :=
  h.accept (matched_next h)

/-- R93: whether a byte is counted, and whether it completes a block, does not depend on the byte. -/
theorem State.sameControl.exec_wrb (d e : Byte) : Matched State.sameControl (exec (.wrb d) s) (exec (.wrb e) s') := by
  rw [exec_wrb_eq_accept, exec_wrb_eq_accept, State.takeByte, State.takeByte, ← h.bitlen]
  refine h.accept ?_
  split
  · exact matched_next (h.raiseCommand _)
  · exact pushOr_matched_bytes h.fill (fun hf hf' => (h.countByte.store hf hf').respond _ _ _)
      fun hf hf' => ((h.countByte.store hf hf').startBlock _).respond _ _ _

theorem State.sameControl.exec_command {i : Instr} (hi : i.isCommand = true) :
    Matched State.sameControl (exec i s) (exec i s') := by
  cases i with
  | init => exact h.accept (matched_next (h.openComputation.respond _ _ _))
  | wrb d => exact h.exec_wrb d d
  | fin =>
    simp only [exec, execFin]
    refine h.accept (matched_next (State.sameControl.respond ?_ _ _ _))
    exact ⟨rfl, h.idx, h.rsm, h.fill, h.bitlen, h.dvalid, h.err, h.fresh, h.port, h.turns⟩
  | rdw | rdb | rds =>
    simp only [exec, execRdw, execRdb, execRds]
    exact h.accept (matched_next (h.respond _ _ _))
  | padm | padz | padl | ldw | exp | lds | rnd | chn | latch => cases hi

/-- R202: no micro-operation tests a data register. -/
theorem State.sameControl.exec_selected {i : Instr} (hsel : s.selects i = true) :
    Matched State.sameControl (exec i s) (exec i s') := by
  intro t ht
  have hi := isCommand_of_selects hsel
  obtain ⟨t', ht', hseq⟩ := h.sameSeq.exec_micro hi t ht
  obtain ⟨herr, hvalid⟩ := exec_selected_flags hsel ht
  obtain ⟨herr', hvalid'⟩ := exec_selected_flags (selects_congr h.ph h.idx i ▸ hsel) ht'
  obtain ⟨hturns, hfresh, hport, -⟩ := exec_micro_silent hi ht
  obtain ⟨hturns', hfresh', hport', -⟩ := exec_micro_silent hi ht'
  have hbitlen : t.bitlen = t'.bitlen := by
    rw [exec_micro_bitlen hi ht, exec_micro_bitlen hi ht', h.bitlen]
  refine ⟨t', ht', hseq.ph, hseq.idx, hseq.rsm, hseq.fill, hbitlen, ?_, ?_, ?_, ?_, ?_⟩
  · rw [hvalid, hvalid', h.dvalid, hseq.ph]
  · simp [herr, herr', h.err, hseq.ph]
  · rw [hfresh, hfresh', h.fresh]
  · rw [hport, hport']
    exact h.port
  · rw [hturns, hturns']
    exact h.turns

end

/-! ### The moves -/

/-- What a move answers. -/
def Move.outcome : Move → Outcome
  | .reset t => .next t.resetEvent
  | .execute i t => exec i t
  | .illegal t => t.acceptIllegal
  | .quiet t => .next t
  | .reserved => .fault .reservedSequencer

theorem step_eq_outcome (s : State) : step s = s.nextMove.outcome := by
  rw [step]
  cases s.nextMove <;> rfl

/-- The second move answers whatever the first does, with the same control state. -/
def Move.Follows (m m' : Move) : Prop := Matched State.sameControl m.outcome m'.outcome

section
variable {s s' : State} (h : s.sameControl s')
include h

theorem State.sameControl.coreMove : s.coreMove.Follows s'.coreMove := by
  obtain ⟨i, -, hsel, hm⟩ | ⟨hb, hk, hm⟩ | ⟨-, hm⟩ := coreMove_cases s
  · rw [hm, coreMove_busy (selects_congr h.ph h.idx i ▸ hsel)]
    exact h.exec_selected hsel
  · rw [hm, coreMove_quiet (h.ph ▸ hb) (h.idx ▸ hk)]
    exact matched_next h
  · rw [hm]
    exact matched_fault

/-- R80: a word is accepted as the same instruction up to the byte of a WRB. -/
theorem State.sameControl.portMove_not_busy {v w : CmdWord} (hw : sameShape v w) (hb : s.ph.busy = false) :
    (s.portMove v).Follows (s'.portMove w) := by
  have hb' : s'.ph.busy = false := h.ph ▸ hb
  obtain rfl | ⟨d, e, rfl, rfl⟩ := sameShape_cases hw
  · cases hd : decodeCommand v with
    | ok i =>
      rw [portMove_legal hb hd, portMove_legal hb' hd]
      exact h.exec_command (isCommand_of_decodeCommand hd)
    | error e =>
      rw [portMove_illegal hb hd, portMove_illegal hb' hd]
      exact h.acceptIllegal
  · rw [portMove_legal hb (decodeCommand_wrb d), portMove_legal hb' (decodeCommand_wrb e)]
    exact h.exec_wrb d e

theorem State.sameControl.portMove {v w : CmdWord} (hw : sameShape v w) : (s.portMove v).Follows (s'.portMove w) := by
  have hiff := sameShape_rds_iff hw
  by_cases hrds : v = 0x5000#16
  · rw [hrds, hiff.1 hrds, portMove_rds, portMove_rds]
    exact h.exec_command (i := .rds) rfl
  · cases hb : s.ph.busy
    · exact h.portMove_not_busy hw hb
    · rw [portMove_held hb hrds, portMove_held (h.ph ▸ hb) (hiff.not.1 hrds)]
      exact h.coreMove

theorem State.sameControl.ownMove : s.ownMove.Follows s'.ownMove := by
  obtain ⟨hport, hport'⟩ | ⟨v, w, hport, hport', hw⟩ := h.port
  · rw [State.ownMove, State.ownMove, hport, hport']
    exact h.coreMove
  · rw [State.ownMove, State.ownMove, hport, hport']
    exact h.portMove hw

theorem State.sameControl.nextMove : s.nextMove.Follows s'.nextMove := by
  have hturns := h.turns
  rw [State.nextMove, State.nextMove]
  cases ht : s.turns with
  | nil =>
    rw [ht, List.forall₂_nil_left_iff] at hturns
    rw [hturns]
    exact h.ownMove
  | cons x r =>
    rw [ht, List.forall₂_cons_left_iff] at hturns
    obtain ⟨y, r', hxy, hr, ht'⟩ := hturns
    have hnext := h.takeTurn hr
    rw [ht']
    match x, y, hxy with
    | .core, .core, _ => exact hnext.coreMove
    | .reset, .reset, _ => exact matched_next hnext.resetEvent
    | .command v, .command w, hvw =>
      obtain ⟨hport, hport'⟩ | ⟨_, _, hport, hport', -⟩ := h.port
      · rw [hport, hport']
        exact (hnext.present hvw).ownMove
      · rw [hport, hport']
        exact h.ownMove

end

/-- Settles O42: the moves of the two states follow each other, and each instruction treats their control states in the
same way. -/
theorem controlIgnoresData : Obligations.ControlIgnoresData := by
  intro s s' t h ht
  rw [step_eq_outcome] at ht ⊢
  exact h.nextMove t ht

/-! ## The run of a busy span (R194) -/

/-- The sequencer stands as in a state that meets the invariant, whatever the other registers hold. -/
def State.SeqInv (s : State) : Prop := ∃ u : State, u.Inv ∧ SameSeq u s

theorem State.Inv.seqInv {s : State} (hs : s.Inv) : s.SeqInv := ⟨s, hs, .refl s⟩

/-- The core's own step is there in a state with the same sequencer, too. -/
theorem CoreStep.of_sameSeq {s s' t : State} (hc : CoreStep s t) (hs : s.Inv) (h : SameSeq s s') :
    ∃ t', CoreStep s' t' ∧ SameSeq t t' := by
  obtain ⟨i, hsel, he, -⟩ := hc
  have hi := isCommand_of_selects hsel
  obtain ⟨t', he', ht⟩ := h.exec_micro hi t he
  have hpart : ¬ PartialBlock s' t' := fun ⟨hp, hf, _⟩ =>
    hs.not_partialBlock ⟨h.ph.trans hp, h.fill ▸ hf, rfl⟩
  exact ⟨t', ⟨i, selects_congr h.ph h.idx i ▸ hsel, he', (exec_micro_next hi he').resolve_left hpart⟩, ht⟩

theorem State.SeqInv.exists_coreStep {s : State} (hs : s.SeqInv) (hb : s.ph.busy = true) :
    ∃ t, CoreStep s t ∧ t.SeqInv ∧ t.stepsLeft + 1 = s.stepsLeft := by
  obtain ⟨u, hu, hus⟩ := hs
  obtain ⟨v, hv⟩ := hu.exists_coreStep (hus.ph ▸ hb)
  obtain ⟨t, ht, hvt⟩ := hv.of_sameSeq hu hus
  refine ⟨t, ht, ⟨v, hv.inv hu, hvt⟩, ?_⟩
  rw [← hvt.stepsLeft_eq, ← hus.stepsLeft_eq]
  exact hv.stepsLeft_succ hu

theorem CoreStep.quietOutside_eq {s t : State} (h : CoreStep s t) : t.quietOutside = s.quietOutside := by
  obtain ⟨hturns, -, hport, -⟩ := h.silent
  rw [State.quietOutside, State.quietOutside, hturns, hport]

theorem Phase.busy_or_absorb_or_done_of_mem_next {p q : Phase} (hb : p.busy = true) (h : q ∈ p.next) :
    q.busy = true ∨ q = .absorb ∨ q = .done := by
  cases p <;> cases q <;> simp [Phase.busy, Phase.next] at hb h ⊢

/-- R39: where a step of a busy core leads. -/
theorem CoreStep.busy_or_absorb_or_done {s t : State} (h : CoreStep s t) :
    t.ph.busy = true ∨ t.ph = .absorb ∨ t.ph = .done := by
  have hb := h.busy
  obtain ⟨i, -, -, hp⟩ := h
  exact Phase.busy_or_absorb_or_done_of_mem_next hb hp.ph_mem_next

/-- R194: with the outside quiet the core performs the micro-operations it has left, and is then not busy. -/
theorem State.SeqInv.runFor_stepsLeft {s : State} (hs : s.SeqInv) (hq : s.quietOutside = true) :
    ∃ t, runFor s.stepsLeft s = .next t ∧ ReflTransGen CoreStep s t ∧ t.ph.busy = false := by
  cases hb : s.ph.busy
  · rw [stepsLeft_of_not_busy hb]
    exact ⟨s, rfl, .refl, hb⟩
  · obtain ⟨u, hc, hu, hleft⟩ := hs.exists_coreStep hb
    obtain ⟨t, hrun, hreach, hend⟩ := hu.runFor_stepsLeft (hc.quietOutside_eq.trans hq)
    have ⟨i, hsel, he, _⟩ := hc
    have hstep := (step_of_quietOutside hq hsel).trans he
    rw [← hleft, runFor_succ_of_step hstep]
    exact ⟨t, hrun, .head hc hreach, hend⟩
termination_by s.stepsLeft

/-- The span of a busy core ends with a step of the core. -/
theorem exists_last_coreStep {s t : State} (h : ReflTransGen CoreStep s t) (hb : s.ph.busy = true)
    (hend : t.ph.busy = false) : ∃ u, CoreStep u t := by
  obtain rfl | ⟨u, -, hc⟩ := h.cases_tail
  · simp [hb] at hend
  · exact ⟨u, hc⟩

theorem State.Inv.of_coreSteps {s t : State} (hs : s.Inv) (h : ReflTransGen CoreStep s t) : t.Inv := by
  induction h with
  | refl => exact hs
  | tail _ hc ih => exact hc.inv ih

/-- Settles O43: no state has more than 398 micro-operations left. -/
theorem busySpanEnds : Obligations.BusySpanEnds := by
  intro s hs hb hq
  obtain ⟨t, hrun, hreach, hend⟩ := hs.seqInv.runFor_stepsLeft hq
  obtain ⟨u, hc⟩ := exists_last_coreStep hreach hb hend
  have hph := hc.busy_or_absorb_or_done.resolve_left (by simp [hend])
  exact ⟨s.stepsLeft, t, s.stepsLeft_le, hrun, hph, hs.of_coreSteps hreach⟩

/-! ## From FIN to DONE (R200) -/

/-- R90, R200 (b): the micro-operations left in PADM, by the length of the message. -/
theorem stepsLeft_of_padm {s : State} {len : Nat} (hp : s.ph = .padm) (hf : s.fill.val = len % 64) :
    s.stepsLeft = Reference.stepsAfterFin len := by
  simp only [State.stepsLeft, hp, hf, Reference.stepsAfterFin, Reference.zeroCount]
  split_ifs <;> omega

/-- In PADM the sequencer of every open block is that of a message of FILL bytes. -/
theorem seqInv_of_padm {s : State} (hp : s.ph = .padm) (hk : s.idx = 0) (hf : s.fill.val < 64) : s.SeqInv := by
  have hbits : (BitVec.ofNat 64 (8 * s.fill.val)).toNat = 8 * s.fill.val := by
    rw [BitVec.toNat_ofNat]
    omega
  refine ⟨{ s with bitlen := BitVec.ofNat 64 (8 * s.fill.val), dvalid := false, err := .none },
    ⟨?_, ?_, fun _ _ => ?_, ?_, ?_⟩, rfl, rfl, rfl, rfl⟩
  · exact (seqLegal_iff_hasIndex _).2 (by simp [Phase.hasIndex, hp, hk])
  · simp only [State.phaseInv, hp, hbits]
    omega
  · simp only [hbits]
    omega
  · simp [hp]
  · simp [hp]

/-- R32: a message that is closed stays closed while the core steps. -/
theorem receiving_iff_of_coreSteps {s t : State} (h : ReflTransGen CoreStep s t) : t.Receiving ↔ s.Receiving := by
  induction h with
  | refl => exact .rfl
  | tail _ hc ih => exact hc.receiving_iff.trans ih

/-- R33, R148: the step into DONE sets DVALID. -/
theorem CoreStep.dvalid_of_done {s t : State} (h : CoreStep s t) (hd : t.ph = .done) : t.dvalid = true := by
  obtain ⟨i, hsel, -, hp⟩ := h
  obtain ⟨-, hvalid⟩ := hp.flags (isCommand_of_selects hsel)
  simp [hvalid, hd]

/-- Settles O44: from PADM the span leads to DONE, since the message is closed. -/
theorem stepsAfterFin : Obligations.StepsAfterFin := by
  intro s len hp hk hf hq
  have hs := seqInv_of_padm hp hk (by omega)
  obtain ⟨t, hrun, hreach, hend⟩ := hs.runFor_stepsLeft hq
  obtain ⟨u, hc⟩ := exists_last_coreStep hreach (by rw [hp]; rfl) hend
  have hclosed : ¬ t.Receiving := by
    rw [receiving_iff_of_coreSteps hreach]
    simp [State.Receiving, Phase.inBlock, hp]
  have hdone : t.ph = .done :=
    (hc.busy_or_absorb_or_done.resolve_left (by simp [hend])).resolve_left fun ha => hclosed (.inl ha)
  exact ⟨t, stepsLeft_of_padm hp hf ▸ hrun, hdone, hc.dvalid_of_done hdone, by simp [State.ended, hdone]⟩

end Sys2Proof.Machine
end
